-- ==== Sys2Proof/Word.lean ====
section
/-! DEFINITION. The word types of the bus: 32-bit addresses, data and masks, 8-bit lane bytes, and the 104 bits of
an encoded transaction (00_scope.md R7, 30_encoding.md R57). -/

namespace Sys2Proof

/-- An address, a data word or a mask: 32 bits (00_scope.md R7). -/
abbrev Word := BitVec 32

/-- A lane byte: 8 bits (00_scope.md R7). -/
abbrev Byte := BitVec 8

/-- An encoded transaction: TH, A, DATA, MASK, the most significant first (30_encoding.md R57). -/
abbrev Encoded := BitVec 104

end Sys2Proof
end

