-- ==== Sys2Proof/Config.lean ====
section
/-! DEFINITION. The parameters the spec asks a model to take as arguments (00_scope.md R6), as plain data, the two
values the source fixes, and the illustrative parameters the reset state carries (notes/assumptions/2.md, 13.md). -/

namespace Sys2Proof

/-- Which data bits carry the lowest-addressed byte of a word (20_memory.md R31). -/
inductive LaneOrder where
  | big     -- lane 0 is bits 31:24
  | little  -- lane 0 is bits 7:0
  deriving DecidableEq, Repr

/-- What a pulse schedule does while the tick controller is disabled (42_tick_controller.md R81). -/
inductive TickPolicy where
  | freeRunning
  | restartOnEnable
  deriving DecidableEq, Repr

/-- The bridges: NUM_SERIAL = 4 serial controllers and NUM_STORAGE = 1 storage interface (00_scope.md R6). -/
inductive Bridge where
  | serial (b : Fin 4)
  | storage
  deriving DecidableEq, Repr

/-- The kind of an address window (20_memory.md R37). -/
inductive Kind where
  | vector
  | remap
  | tickOn
  | tickOff
  | ram
  | rom
  | ramdisk
  | serial (b : Fin 4)
  | storage
  deriving DecidableEq, Repr

/-- One window of the table; `stop` is the spec's inclusive `end` (20_memory.md R36). -/
structure Window where
  start : Word
  stop  : Word
  kind  : Kind
  deriving DecidableEq, Repr

/-- One value for each bridge. -/
structure PerBridge (α : Type) where
  serial0 : α
  serial1 : α
  serial2 : α
  serial3 : α
  storage : α
  deriving DecidableEq, Repr

/-- The set of byte lanes that reach a bridge, `ADAPTER_LANES` (43_bridges.md R84). -/
structure LaneSet where
  lane0 : Bool
  lane1 : Bool
  lane2 : Bool
  lane3 : Bool
  deriving DecidableEq, Repr

/-- Bytes of address per bridge register, `ADAPTER_STRIDE`: 1 or 4 (43_bridges.md R84). -/
inductive Stride where
  | one
  | four
  deriving DecidableEq, Repr

/-- The bus-width adapter of one bridge window (43_bridges.md R84). -/
structure Adapter where
  lanes  : LaneSet
  stride : Stride
  deriving DecidableEq, Repr

/-- A byte store: (offset, byte) pairs, the offsets strictly rising and no byte 0x00; an offset not listed reads
0x00 (44_backing_store.md R91; notes/assumptions/4.md). -/
abbrev Memory := List Host.Cell

/-- The parameters of 00_scope.md R6 that are not fixed by the source. No step changes them (10_state.md R21). -/
structure Config where
  laneOrder     : LaneOrder
  openBus       : Word
  windows       : List Window
  ramSize       : Nat
  romSize       : Nat
  ramdiskSize   : Nat
  romImage      : Memory
  tickPeriod    : Nat
  tickPhase     : Nat
  tickPolicy    : TickPolicy
  tickLine      : Nat
  bridgeLines   : PerBridge Nat
  adapters      : PerBridge Adapter
  displayBridge : Bridge
  deriving DecidableEq, Repr

/-- `VEC_CONST[0]` (00_scope.md R6). -/
def vecConst0 : Word := 0x00000000

/-- `VEC_CONST[1]` (00_scope.md R6). -/
def vecConst1 : Word := 0xFE000494

/-- `VEC_BASE` (00_scope.md R6). -/
def vecBase : Word := 0x00000000

/-- Every lane of the word: the spec's value of `ADAPTER_LANES` (43_bridges.md R84). -/
def LaneSet.all : LaneSet := ⟨true, true, true, true⟩

/-- The spec's value of a bridge's adapter: every lane, one register a byte (43_bridges.md R84). -/
def Adapter.byteWide : Adapter := ⟨LaneSet.all, .one⟩

/-- The window table `EX` of 95_test_vectors.md section 0, which the spec calls illustrative. DESIGN CHOICE
(notes/assumptions/2.md): only the reset state carries it. -/
def exampleWindows : List Window :=
  [ ⟨0x00000000, 0x00000007, .vector⟩,
    ⟨0x00000008, 0x000FFFFF, .ram⟩,
    ⟨0x00100000, 0x0010FFFF, .ramdisk⟩,
    ⟨0xFE000000, 0xFE00FFFF, .rom⟩,
    ⟨0xFF000000, 0xFF000003, .remap⟩,
    ⟨0xFF000004, 0xFF000007, .tickOn⟩,
    ⟨0xFF000008, 0xFF00000B, .tickOff⟩,
    ⟨0xFF000010, 0xFF00001F, .storage⟩,
    ⟨0xFF000020, 0xFF00002F, .serial 0⟩,
    ⟨0xFF000030, 0xFF00003F, .serial 1⟩,
    ⟨0xFF000040, 0xFF00004F, .serial 2⟩,
    ⟨0xFF000050, 0xFF00005F, .serial 3⟩ ]

/-- The parameters of the reset state: the spec's own values where it takes one (LANE_ORDER, OPEN_BUS_VALUE,
TICK_PHASE, TICK_POLICY, the adapters) and, DESIGN CHOICE (notes/assumptions/2.md and 13.md), the illustrative
table, image and period of 95_test_vectors.md section 0, line numbers 0 to 5 and SERIAL(0) for the display. -/
def Config.illustrative : Config where
  laneOrder     := .big
  openBus       := 0xFFFFFFFF
  windows       := exampleWindows
  ramSize       := 0xFFFF8
  romSize       := 0x10000
  ramdiskSize   := 0x10000
  romImage      := [(0, 0x4E), (1, 0x71), (2, 0x4E), (3, 0x75)]
  tickPeriod    := 100
  tickPhase     := 0
  tickPolicy    := .freeRunning
  tickLine      := 0
  bridgeLines   := ⟨1, 2, 3, 4, 5⟩
  adapters      := ⟨.byteWide, .byteWide, .byteWide, .byteWide, .byteWide⟩
  displayBridge := .serial 0

end Sys2Proof
end

