-- ==== Sys2Proof/Machine/Route.lean ====
section
/-! DEFINITION. Window lookup and the offset within a window (20_memory.md R38, R39), and the parameters of a
bridge by its name. -/

namespace Sys2Proof.Machine

/-- `w.start <= A <= w.end`, the end inclusive (20_memory.md R36, R38). -/
def covers (w : Window) (a : Word) : Bool :=
  decide (w.start.toNat ≤ a.toNat) && decide (a.toNat ≤ w.stop.toNat)

/-- `lookup(A)`: the window that contains `A`, or none (20_memory.md R38). Only the address decides. -/
def lookup : List Window → Word → Option Window
  | [], _ => none
  | w :: ws, a => if covers w a then some w else lookup ws a

/-- The kind of `lookup(A)`; none is the spec's `NONE` (30_encoding.md R58). -/
def kindAt (tbl : List Window) (a : Word) : Option Kind :=
  (lookup tbl a).map Window.kind

/-- `off = A - w.start`, exact (20_memory.md R39, R41). -/
def offsetIn (w : Window) (a : Word) : Nat :=
  a.toNat - w.start.toNat

/-- The value a per-bridge parameter has for one bridge. -/
def ofBridge {α : Type} (p : PerBridge α) : Bridge → α
  | .serial 0 => p.serial0
  | .serial 1 => p.serial1
  | .serial 2 => p.serial2
  | .serial 3 => p.serial3
  | .storage => p.storage

/-- `L(b)`: the interrupt line of a bridge, `L_SER[b]` or `L_STOR` (60_exceptions.md R104, R110). -/
def bridgeLine (c : Config) (b : Bridge) : Nat :=
  ofBridge c.bridgeLines b

/-- The bus-width adapter of a bridge's window (43_bridges.md R84). -/
def adapterOf (c : Config) (b : Bridge) : Adapter :=
  ofBridge c.adapters b

/-- The identifiers of the six interrupt lines (60_exceptions.md R104). -/
def allLines (c : Config) : List Nat :=
  [c.tickLine, c.bridgeLines.serial0, c.bridgeLines.serial1, c.bridgeLines.serial2, c.bridgeLines.serial3,
    c.bridgeLines.storage]

end Sys2Proof.Machine
end

