-- ==== Sys2Proof/Syntax.lean ====
section
/-! DEFINITION. The bus operations, one constructor for each row of spec/opcode_table.json (30_encoding.md R58). -/

namespace Sys2Proof

/-- The width of a transaction: 8, 16 or 32 bits (20_memory.md R33). -/
inductive Width where
  | w8
  | w16
  | w32
  deriving DecidableEq, Repr

/-- One bus transaction together with the operation its direction and its address select (30_encoding.md R58).
A read has its width, address and mask; a write has its data before the mask. A read has no data: the block
ignores the DATA field of a read (30_encoding.md R57). -/
inductive Instr where
  | unmappedRd (w : Width) (a m : Word)
  | unmappedWr (w : Width) (a d m : Word)
  | vecRd (w : Width) (a m : Word)
  | vecWr (w : Width) (a d m : Word)
  | remapRd (w : Width) (a m : Word)
  | remapWr (w : Width) (a d m : Word)
  | tickonRd (w : Width) (a m : Word)
  | tickonWr (w : Width) (a d m : Word)
  | tickoffRd (w : Width) (a m : Word)
  | tickoffWr (w : Width) (a d m : Word)
  | serialRd (w : Width) (a m : Word)
  | serialWr (w : Width) (a d m : Word)
  | storageRd (w : Width) (a m : Word)
  | storageWr (w : Width) (a d m : Word)
  | ramRd (w : Width) (a m : Word)
  | ramWr (w : Width) (a d m : Word)
  | romRd (w : Width) (a m : Word)
  | romWr (w : Width) (a d m : Word)
  | ramdiskRd (w : Width) (a m : Word)
  | ramdiskWr (w : Width) (a d m : Word)
  deriving DecidableEq, Repr

/-- The address of a transaction. -/
def Instr.addr : Instr → Word
  | .unmappedRd _ a _ => a
  | .unmappedWr _ a _ _ => a
  | .vecRd _ a _ => a
  | .vecWr _ a _ _ => a
  | .remapRd _ a _ => a
  | .remapWr _ a _ _ => a
  | .tickonRd _ a _ => a
  | .tickonWr _ a _ _ => a
  | .tickoffRd _ a _ => a
  | .tickoffWr _ a _ _ => a
  | .serialRd _ a _ => a
  | .serialWr _ a _ _ => a
  | .storageRd _ a _ => a
  | .storageWr _ a _ _ => a
  | .ramRd _ a _ => a
  | .ramWr _ a _ _ => a
  | .romRd _ a _ => a
  | .romWr _ a _ _ => a
  | .ramdiskRd _ a _ => a
  | .ramdiskWr _ a _ _ => a

end Sys2Proof
end

