-- ==== Sys2Proof/WellFormed.lean ====
section
/-! DEFINITION. Which window tables and parameters a model may be built from (20_memory.md R36, 00_scope.md R6), and
which terms of Instr are transactions under a table (30_encoding.md R58). Each check is a definition of its own. -/

namespace Sys2Proof

/-- `start <= end` of every window (20_memory.md R36). -/
def windowsOrdered (t : List Window) : Bool :=
  t.all fun w => decide (w.start.toNat ≤ w.stop.toNat)

/-- No two windows of the list overlap (20_memory.md R36 item 1). -/
def windowsDisjoint : List Window → Bool
  | [] => true
  | w :: ws =>
    (ws.all fun v => decide (w.stop.toNat < v.start.toNat) || decide (v.stop.toNat < w.start.toNat))
      && windowsDisjoint ws

/-- The windows of one kind. -/
def windowsOf (t : List Window) (k : Kind) : List Window :=
  t.filter fun w => decide (w.kind = k)

/-- Exactly one vector window, at 0x00000000 to 0x00000007 (20_memory.md R36 item 2). -/
def vectorFixed (t : List Window) : Bool :=
  decide (windowsOf t .vector = [⟨vecBase, 0x00000007, .vector⟩])

/-- Exactly one window of each kind but `VECTOR`, with four of kind `SERIAL(b)`, one for each `b`
(20_memory.md R36 item 3). -/
def oneWindowEach (t : List Window) : Bool :=
  [Kind.remap, .tickOn, .tickOff, .storage, .ram, .rom, .ramdisk, .serial 0, .serial 1, .serial 2, .serial 3].all
    fun k => decide ((windowsOf t k).length = 1)

/-- `SERIAL(b)`, for any `b`. -/
def isSerialKind : Option Kind → Bool
  | some (.serial _) => true
  | _ => false

/-- A window of kind `SERIAL(b)`. -/
def isSerial (w : Window) : Bool :=
  isSerialKind (some w.kind)

/-- One of the four windows the serial windows lie above (20_memory.md R36 item 4). -/
def isBelowSerial (w : Window) : Bool :=
  match w.kind with
  | .remap => true
  | .tickOn => true
  | .tickOff => true
  | .storage => true
  | _ => false

/-- Every serial window starts above the end of the remap, tick and storage windows (20_memory.md R36 item 4). -/
def serialAbove (t : List Window) : Bool :=
  (t.filter isSerial).all fun w => (t.filter isBelowSerial).all fun v => decide (v.stop.toNat < w.start.toNat)

/-- The bytes a window covers, `end - start + 1`. -/
def windowSize (w : Window) : Nat :=
  w.stop.toNat - w.start.toNat + 1

/-- A store's window is as long as its store (20_memory.md R36 item 5). -/
def sizesMatch (c : Config) : Bool :=
  ((windowsOf c.windows .ram).all fun w => decide (windowSize w = c.ramSize))
    && ((windowsOf c.windows .rom).all fun w => decide (windowSize w = c.romSize))
    && ((windowsOf c.windows .ramdisk).all fun w => decide (windowSize w = c.ramdiskSize))

/-- A memory in its canonical form: offsets strictly rising, no byte 0x00 (notes/assumptions/4.md). -/
def memoryWf : Memory → Bool
  | [] => true
  | c :: m => decide (c.2 ≠ 0) && (m.all fun e => decide (c.1 < e.1)) && memoryWf m

/-- Every listed offset is below `n`, the length of the store (44_backing_store.md R91). -/
def memoryWithin (n : Nat) (m : Memory) : Bool :=
  m.all fun c => decide (c.1 < n)

/-- `ROM_IMAGE` is a store of `ROM_SIZE` bytes (00_scope.md R6). -/
def romImageFits (c : Config) : Bool :=
  memoryWf c.romImage && memoryWithin c.romSize c.romImage

/-- `TICK_PERIOD > 0` (00_scope.md R6). -/
def periodPositive (c : Config) : Bool :=
  decide (0 < c.tickPeriod)

/-- The line identifiers are all distinct (92_eei_decisions.md D16). -/
def linesDistinct (c : Config) : Bool :=
  decide (Machine.allLines c).Nodup

/-- A table and parameters that meet every constraint (20_memory.md R36, 00_scope.md R6). -/
def Config.wf (c : Config) : Bool :=
  windowsOrdered c.windows && windowsDisjoint c.windows && vectorFixed c.windows && oneWindowEach c.windows
    && serialAbove c.windows && sizesMatch c && romImageFits c && periodPositive c && linesDistinct c

/-- The window kind an operation belongs to; none for the unmapped operations (30_encoding.md R58). Any serial
window will do for the serial operations. -/
def Instr.fitsKind : Instr → Option Kind → Bool
  | .unmappedRd _ _ _, k => decide (k = none)
  | .unmappedWr _ _ _ _, k => decide (k = none)
  | .vecRd _ _ _, k => decide (k = some .vector)
  | .vecWr _ _ _ _, k => decide (k = some .vector)
  | .remapRd _ _ _, k => decide (k = some .remap)
  | .remapWr _ _ _ _, k => decide (k = some .remap)
  | .tickonRd _ _ _, k => decide (k = some .tickOn)
  | .tickonWr _ _ _ _, k => decide (k = some .tickOn)
  | .tickoffRd _ _ _, k => decide (k = some .tickOff)
  | .tickoffWr _ _ _ _, k => decide (k = some .tickOff)
  | .serialRd _ _ _, k => isSerialKind k
  | .serialWr _ _ _ _, k => isSerialKind k
  | .storageRd _ _ _, k => decide (k = some .storage)
  | .storageWr _ _ _ _, k => decide (k = some .storage)
  | .ramRd _ _ _, k => decide (k = some .ram)
  | .ramWr _ _ _ _, k => decide (k = some .ram)
  | .romRd _ _ _, k => decide (k = some .rom)
  | .romWr _ _ _ _, k => decide (k = some .rom)
  | .ramdiskRd _ _ _, k => decide (k = some .ramdisk)
  | .ramdiskWr _ _ _ _, k => decide (k = some .ramdisk)

/-- A term is a transaction under a table when its address lies in a window of its operation's kind
(30_encoding.md R58). -/
def Instr.wf (t : List Window) (i : Instr) : Bool :=
  i.fitsKind (Machine.kindAt t i.addr)

end Sys2Proof
end

