-- ==== Sys2Proof/Decode.lean ====
section
/-! DEFINITION. Decoding the 104 bits of a transaction, total and rejecting by name, and the encoder
(30_encoding.md R56, R57, R58, R61). -/

namespace Sys2Proof

/-- Why bits are no transaction. -/
inductive DecodeError where
  | reservedWidth  -- WID = 11 (30_encoding.md R61)
  | reservedBits   -- a bit of TH[4:0] is set (30_encoding.md R61)
  | wrongLength    -- not the 13 bytes of the one format (30_encoding.md R63)
  deriving DecidableEq, Repr

/-- `WID`, bits 6:5 of TH; 11 is reserved (30_encoding.md R56, R61). -/
def widthOfBits : BitVec 2 → Option Width
  | 0 => some .w8
  | 1 => some .w16
  | 2 => some .w32
  | _ => none

/-- The read operation of a window kind (30_encoding.md R58). -/
def readOp (k : Option Kind) (w : Width) (a m : Word) : Instr :=
  match k with
  | none => .unmappedRd w a m
  | some .vector => .vecRd w a m
  | some .remap => .remapRd w a m
  | some .tickOn => .tickonRd w a m
  | some .tickOff => .tickoffRd w a m
  | some (.serial _) => .serialRd w a m
  | some .storage => .storageRd w a m
  | some .ram => .ramRd w a m
  | some .rom => .romRd w a m
  | some .ramdisk => .ramdiskRd w a m

/-- The write operation of a window kind (30_encoding.md R58). -/
def writeOp (k : Option Kind) (w : Width) (a d m : Word) : Instr :=
  match k with
  | none => .unmappedWr w a d m
  | some .vector => .vecWr w a d m
  | some .remap => .remapWr w a d m
  | some .tickOn => .tickonWr w a d m
  | some .tickOff => .tickoffWr w a d m
  | some (.serial _) => .serialWr w a d m
  | some .storage => .storageWr w a d m
  | some .ram => .ramWr w a d m
  | some .rom => .romWr w a d m
  | some .ramdisk => .ramdiskWr w a d m

/-- TH, bits 103:96 (30_encoding.md R57). -/
def headerField (x : Encoded) : Byte := x.extractLsb' 96 8

/-- A, bits 95:64 (30_encoding.md R57). -/
def addressField (x : Encoded) : Word := x.extractLsb' 64 32

/-- DATA, bits 63:32 (30_encoding.md R57). -/
def dataField (x : Encoded) : Word := x.extractLsb' 32 32

/-- MASK, bits 31:0 (30_encoding.md R57). -/
def maskField (x : Encoded) : Word := x.extractLsb' 0 32

/-- The transaction that 104 bits encode under a window table (30_encoding.md R56 to R58). The DATA field of a read
is ignored (R57); a reserved TH is refused by name (R61). -/
def decode (tbl : List Window) (x : Encoded) : Except DecodeError Instr :=
  let th := headerField x
  let a := addressField x
  if th.extractLsb' 0 5 ≠ 0 then .error .reservedBits
  else
    match widthOfBits (th.extractLsb' 5 2) with
    | none => .error .reservedWidth
    | some w =>
      if th.getLsbD 7 then .ok (writeOp (Machine.kindAt tbl a) w a (dataField x) (maskField x))
      else .ok (readOp (Machine.kindAt tbl a) w a (maskField x))

/-- The bytes of an encoded transaction as one number, the first byte (TH) the most significant
(30_encoding.md R57). -/
def assemble (bs : List Byte) : Encoded :=
  BitVec.ofNat 104 (bs.foldl (fun n b => n * 256 + b.toNat) 0)

/-- Decoding any list of bytes, TH first; a list that is not 13 bytes long is no transaction (30_encoding.md R63). -/
def decodeBytes (tbl : List Window) (bs : List Byte) : Except DecodeError Instr :=
  if bs.length = 13 then decode tbl (assemble bs) else .error .wrongLength

/-- `WID` of a width (30_encoding.md R56). -/
def widthBits : Width → BitVec 2
  | .w8 => 0
  | .w16 => 1
  | .w32 => 2

/-- TH: `DIR`, `WID`, five zeros (30_encoding.md R56). -/
def headerByte (write : Bool) (w : Width) : Byte :=
  BitVec.ofBool write ++ widthBits w ++ (0 : BitVec 5)

/-- A read transaction's bits; its DATA is 0x00000000 (30_encoding.md R57). -/
def encodeRead (w : Width) (a m : Word) : Encoded :=
  headerByte false w ++ a ++ (0 : Word) ++ m

/-- A write transaction's bits (30_encoding.md R57). -/
def encodeWrite (w : Width) (a d m : Word) : Encoded :=
  headerByte true w ++ a ++ d ++ m

/-- The bits of a transaction (30_encoding.md R57). The operation is not encoded: its address selects it (R58). -/
def encode : Instr → Encoded
  | .unmappedRd w a m => encodeRead w a m
  | .unmappedWr w a d m => encodeWrite w a d m
  | .vecRd w a m => encodeRead w a m
  | .vecWr w a d m => encodeWrite w a d m
  | .remapRd w a m => encodeRead w a m
  | .remapWr w a d m => encodeWrite w a d m
  | .tickonRd w a m => encodeRead w a m
  | .tickonWr w a d m => encodeWrite w a d m
  | .tickoffRd w a m => encodeRead w a m
  | .tickoffWr w a d m => encodeWrite w a d m
  | .serialRd w a m => encodeRead w a m
  | .serialWr w a d m => encodeWrite w a d m
  | .storageRd w a m => encodeRead w a m
  | .storageWr w a d m => encodeWrite w a d m
  | .ramRd w a m => encodeRead w a m
  | .ramWr w a d m => encodeWrite w a d m
  | .romRd w a m => encodeRead w a m
  | .romWr w a d m => encodeWrite w a d m
  | .ramdiskRd w a m => encodeRead w a m
  | .ramdiskWr w a d m => encodeWrite w a d m

/-- Byte `i` of an encoded transaction in the order it is written, TH the byte 0 (30_encoding.md R57). -/
def encodedByte (x : Encoded) (i : Nat) : Byte :=
  x.extractLsb' (8 * (12 - i)) 8

/-- The 13 bytes of an encoded transaction, TH first (30_encoding.md R57). -/
def bytesOf (x : Encoded) : List Byte :=
  (List.range 13).map (encodedByte x)

/-- The 13 bytes of a transaction, TH first. -/
def encodeBytes (i : Instr) : List Byte :=
  bytesOf (encode i)

/-- The bytes of an instruction whose bits are numbered as spec/opcode_table.json numbers them: byte `i` is bits
`8i+7` to `8i`, the bits at and above `nbits` are 0 (notes/assumptions/16.md). -/
def tableBytes (nbits w : Nat) : List Byte :=
  (List.range 13).map fun i => BitVec.ofNat 8 ((w % 2 ^ nbits) >>> (8 * i))

/-- The instruction the decoder reads from a table word, under the reset state's window table. -/
def decodeTableWord (nbits w : Nat) : Option Instr :=
  match decodeBytes Config.illustrative.windows (tableBytes nbits w) with
  | .ok i => some i
  | .error _ => none

end Sys2Proof
end

