-- ==== Sys2Proof/Machine/State.lean ====
section
/-! DEFINITION. The state of the block (10_state.md R12), the parameters it runs under (00_scope.md R6), the
interface of a step, and the state right after reset (10_state.md R28). All of it is plain data. -/

namespace Sys2Proof.Machine

/-- The block has no fault outcome: a bus access "must never raise a fault that halts the system"
(00_scope.md R9, 60_exceptions.md R100). So no constructor, and no step can end in a fault. -/
inductive Fault where
  deriving DecidableEq, Repr

/-- The model's own verdicts; never something the hardware does (00_scope.md R9, 60_exceptions.md R102). -/
inductive Refusal where
  /-- Raised by an arm of `exec` that has no meaning yet. Safe: nothing can be proved about its effect. -/
  | notModelled (mnemonic : String)
  /-- Raised by a bridge operation when a lane that reaches the bridge has a mask byte that is neither 0x00 nor
  0xFF (43_bridges.md R89). Safe: no effect is claimed. A step turns it into the `refused` mark
  (notes/assumptions/7.md). -/
  | nonGranularBridgeMask
  /-- Raised by an operation whose address does not lie in a window of its kind: such a term is no transaction
  (30_encoding.md R58) and the decoder never makes one (notes/assumptions/12.md). Safe. -/
  | misrouted
  /-- Raised by PULSE when no pulse is due: it is not a step then (60_exceptions.md R106,
  notes/assumptions/8.md). Safe. -/
  | pulseNotDue
  /-- Raised by TIME(t) when `t` lies before `now` or after the pending pulse: it is not a step then
  (60_exceptions.md R119, notes/assumptions/8.md). Safe. -/
  | timeNotAllowed
  deriving DecidableEq, Repr

/-- An element of the outbound event queue (10_state.md R24). -/
inductive Event where
  | assertLine (l : Nat)
  | deassertLine (l : Nat)
  | transmit (b : Bridge) (v : Byte)
  deriving DecidableEq, Repr

/-- One call of a bridge's register file (43_bridges.md R83): the register offset and the byte read or written. -/
inductive BridgeCall where
  | read (b : Bridge) (r : Nat) (v : Byte)
  | write (b : Bridge) (r : Nat) (v : Byte)
  deriving DecidableEq, Repr

/-- The byte a bridge answers for each lane of the transaction under way: an input from the bridge, free
(10_state.md R25, 43_bridges.md R83; notes/assumptions/6.md). -/
structure Replies where
  lane0 : Byte
  lane1 : Byte
  lane2 : Byte
  lane3 : Byte
  deriving DecidableEq, Repr

/-- The persistent ramdisk blob: its length in bytes and its bytes by offset (60_exceptions.md R120, R121). -/
structure Blob where
  length : Nat
  bytes  : List Host.Cell
  deriving DecidableEq, Repr

/-- What the host reports to the operator (60_exceptions.md R101 (d), R120, R121). -/
inductive Report where
  | loadFailed
  | saveFailed
  deriving DecidableEq, Repr

/-- The draws of one RESET (70_reset_and_hazards.md R124): `OVR1_INIT`, `RAM_INIT`, and whether reading the blob
goes without error (60_exceptions.md R120). Any values (notes/assumptions/5.md). -/
structure PowerOn where
  ovr1      : Word
  ram       : List Host.Cell
  blobReads : Bool
  deriving DecidableEq, Repr

/-- One step of one agent (00_scope.md R5). -/
inductive AgentStep where
  /-- The CPU issues a transaction, encoded (30_encoding.md R57); `r` is what the bridges answer, if asked. -/
  | bus (x : Encoded) (r : Replies)
  /-- The CPU clears an interrupt line (60_exceptions.md R109). -/
  | clear (l : Nat)
  /-- The tick controller's pulse (60_exceptions.md R106). -/
  | pulse
  /-- A bridge asserts its line (60_exceptions.md R110). -/
  | bridgeAssert (b : Bridge)
  /-- A bridge deasserts its line (60_exceptions.md R110). -/
  | bridgeDeassert (b : Bridge)
  /-- The display bridge transmits a byte (43_bridges.md R90). -/
  | transmit (v : Byte)
  /-- The host's clock step TIME(t) (60_exceptions.md R119). -/
  | time (t : Nat)
  /-- The host's ADVANCE t, the TIME and PULSE steps up to `t` (60_exceptions.md R119). -/
  | advance (t : Nat)
  /-- The host's RESET, power-on or restart (70_reset_and_hazards.md R124). -/
  | reset (d : PowerOn)
  /-- The host saves the ramdisk (60_exceptions.md R121). -/
  | saveRamdisk
  /-- The host tries to save and fails; `left` is what the blob then is, any value (60_exceptions.md R121). -/
  | saveFails (left : Option Blob)
  /-- The host tears the system down: nothing more happens (60_exceptions.md R118). -/
  | tearDown
  deriving DecidableEq, Repr

/-- The state. `cfg` is the parameters, which no step writes (00_scope.md R6, 10_state.md R21); `ovr0` to `refused`
are the state record of 10_state.md R12; `blob` and `reports` are the host's side of the ramdisk
(60_exceptions.md R120, R121); `result` to `stream` are the model's own interface fields
(notes/assumptions/1.md, 6.md, 9.md, 10.md). -/
structure State where
  cfg         : Config
  /-- Override word 0 (10_state.md R14). -/
  ovr0        : Word
  /-- Override word 1 (10_state.md R14). -/
  ovr1        : Word
  /-- The vector window reads the override words (10_state.md R15). -/
  active      : Bool
  /-- A pulse asserts the tick interrupt line (10_state.md R16). -/
  enabled     : Bool
  /-- The time of the next pulse, none being the spec's `NONE` (10_state.md R17). -/
  nextPulse   : Option Nat
  /-- Simulated time (10_state.md R26). -/
  now         : Nat
  ram         : Memory
  rom         : Memory
  ramdisk     : Memory
  /-- The asserted interrupt lines, rising: `irq[l]` is whether `l` is listed (10_state.md R23). -/
  irq         : List Nat
  /-- The outbound event queue, oldest first (10_state.md R24). -/
  events      : List Event
  /-- The run is marked refused (00_scope.md R9). -/
  refused     : Bool
  /-- The persistent blob, if there is one (60_exceptions.md R120). -/
  blob        : Option Blob
  /-- The host's reports to the operator, oldest first (60_exceptions.md R101 (d)). -/
  reports     : List Report
  /-- What the last transaction returned: a value for a read, none for a write (20_memory.md R33). -/
  result      : Option Word
  /-- What the bridges answer in the transaction under way (43_bridges.md R83). -/
  replies     : Replies
  /-- The bridge calls made, oldest first (43_bridges.md R83). -/
  bridgeCalls : List BridgeCall
  /-- The steps still to be taken, in the total order of 20_memory.md R46. -/
  stream      : List AgentStep
  deriving DecidableEq, Repr

/-- The machine right after RESET (10_state.md R28, 70_reset_and_hazards.md R124), with the parameters of
notes/assumptions/2.md and no blob. The spec gives no value for `ovr1` (notes/assumptions/3.md) nor for RAM
(notes/assumptions/4.md); the interface fields hold the values of notes/assumptions/1.md, 6.md, 9.md, 10.md and
11.md. -/
def State.reset : State where
  cfg         := Config.illustrative
  ovr0        := 0x00000000
  ovr1        := 0x00000000
  active      := false
  enabled     := false
  nextPulse   := some 100
  now         := 0
  ram         := []
  rom         := Config.illustrative.romImage
  ramdisk     := []
  irq         := []
  events      := []
  refused     := false
  blob        := none
  reports     := [.loadFailed]
  result      := none
  replies     := ⟨0x00, 0x00, 0x00, 0x00⟩
  bridgeCalls := []
  stream      := []

end Sys2Proof.Machine
end

