-- ==== Sys2Proof/Machine/Operands.lean ====
section
/-! DEFINITION. The operands of a transaction: byte lanes and their order, masks, masked merge, the lanes that lie in
a window or reach a bridge (20_memory.md R30 to R43, 43_bridges.md R84), and the CPU-side forms of an access
(30_encoding.md R60, R65, 20_memory.md R42). -/

namespace Sys2Proof.Machine

/-- The four lanes, in ascending order (20_memory.md R30). -/
def lanes : List (Fin 4) := [0, 1, 2, 3]

/-- `W = A & 0xFFFFFFFC` (20_memory.md R30). -/
def wordBase (a : Word) : Nat :=
  (a &&& 0xFFFFFFFC#32).toNat

/-- The address of lane `k`: `W + k`, exact (20_memory.md R30, R41). -/
def laneAddr (a : Word) (k : Fin 4) : Nat :=
  wordBase a + k.val

/-- The lowest data bit of lane `k` (20_memory.md R31). -/
def laneShift : LaneOrder → Fin 4 → Nat
  | .big, k => 24 - 8 * k.val
  | .little, k => 8 * k.val

/-- `lane(v, k)` (20_memory.md R31). -/
def lane (o : LaneOrder) (v : Word) (k : Fin 4) : Byte :=
  v.extractLsb' (laneShift o k) 8

/-- `v with lane(k) = b` (00_scope.md R8). -/
def withLane (o : LaneOrder) (v : Word) (k : Fin 4) (b : Byte) : Word :=
  (v &&& ~~~(0xFF#32 <<< laneShift o k)) ||| (b.setWidth 32 <<< laneShift o k)

/-- Lane `k` is active: its mask byte is not 0x00 (20_memory.md R34). -/
def activeLane (o : LaneOrder) (mask : Word) (k : Fin 4) : Bool :=
  decide (lane o mask k ≠ 0x00#8)

/-- Every lane of the mask is 0x00 or 0xFF (20_memory.md R34). -/
def laneGranular (o : LaneOrder) (mask : Word) : Bool :=
  lanes.all fun k => decide (lane o mask k = 0x00#8) || decide (lane o mask k = 0xFF#8)

/-- `merge(old, data, mask) = (old & ~mask) | (data & mask)` (20_memory.md R35). -/
def merge (old data mask : Word) : Word :=
  (old &&& ~~~mask) ||| (data &&& mask)

/-- Masked merge of one byte (20_memory.md R35, 44_backing_store.md R93). -/
def mergeByte (old data mask : Byte) : Byte :=
  (old &&& ~~~mask) ||| (data &&& mask)

/-- Lane `k` is in window: `w.start <= W + k <= w.end` (20_memory.md R43). -/
def inWindow (w : Window) (a : Word) (k : Fin 4) : Bool :=
  decide (w.start.toNat ≤ laneAddr a k) && decide (laneAddr a k ≤ w.stop.toNat)

/-- The offset of lane `k` in a window it lies in (44_backing_store.md R92). -/
def laneOffset (w : Window) (a : Word) (k : Fin 4) : Nat :=
  laneAddr a k - w.start.toNat

/-- Whether a lane is in an adapter's lane set (43_bridges.md R84). -/
def inLaneSet (s : LaneSet) : Fin 4 → Bool
  | 0 => s.lane0
  | 1 => s.lane1
  | 2 => s.lane2
  | 3 => s.lane3

/-- `reach(k)`: an active lane, in window, and in the adapter's lane set (43_bridges.md R84). -/
def reaches (o : LaneOrder) (ad : Adapter) (w : Window) (a mask : Word) (k : Fin 4) : Bool :=
  activeLane o mask k && inWindow w a k && inLaneSet ad.lanes k

/-- The bytes of address per register (43_bridges.md R84). -/
def strideBytes : Stride → Nat
  | .one => 1
  | .four => 4

/-- `reg(k) = ((W + k) - w.start) div ADAPTER_STRIDE` (43_bridges.md R84). -/
def bridgeReg (ad : Adapter) (w : Window) (a : Word) (k : Fin 4) : Nat :=
  laneOffset w a k / strideBytes ad.stride

/-- The byte the bridge answers for lane `k` (43_bridges.md R83). -/
def replyOf (r : Replies) : Fin 4 → Byte
  | 0 => r.lane0
  | 1 => r.lane1
  | 2 => r.lane2
  | 3 => r.lane3

/-- The number of bytes of an access: `n = width / 8` (30_encoding.md R60). -/
def widthBytes : Width → Nat
  | .w8 => 1
  | .w16 => 2
  | .w32 => 4

/-- `s = A mod 4` (30_encoding.md R60). -/
def laneOfAddr (a : Word) : Nat :=
  a.toNat % 4

/-- The bytes of the access stay within one aligned word: `s + n <= 4` (30_encoding.md R60). -/
def fitsWord (a : Word) (w : Width) : Bool :=
  decide (laneOfAddr a + widthBytes w ≤ 4)

/-- The mask whose lanes `s` to `s + n - 1` are 0xFF and whose other lanes are 0x00 (30_encoding.md R60). -/
def maskOfLanes (o : LaneOrder) (s n : Nat) : Word :=
  lanes.foldl (fun v k => if s ≤ k.val ∧ k.val < s + n then withLane o v k 0xFF#8 else v) 0#32

/-- `CanonMask(A, width)`; none for an access that crosses an aligned word (30_encoding.md R60). -/
def canonMask (o : LaneOrder) (a : Word) (w : Width) : Option Word :=
  if fitsWord a w then some (maskOfLanes o (laneOfAddr a) (widthBytes w)) else none

/-- The shift of `Place` and `Extract` (30_encoding.md R65). -/
def placeShift : LaneOrder → Word → Width → Nat
  | .big, a, w => 8 * (4 - laneOfAddr a - widthBytes w)
  | .little, a, _ => 8 * laneOfAddr a

/-- The low `width` bits of a value. -/
def lowBits (w : Width) (v : Word) : Word :=
  match w with
  | .w8 => v &&& 0xFF#32
  | .w16 => v &&& 0xFFFF#32
  | .w32 => v

/-- `Place(v, A, width)`, `v` a value of `width` bits; none for an access that crosses (30_encoding.md R65). -/
def place (o : LaneOrder) (v a : Word) (w : Width) : Option Word :=
  if fitsWord a w then some (lowBits w v <<< placeShift o a w) else none

/-- `Extract(r, A, width)`: the value a CPU takes from a read result; none for an access that crosses
(30_encoding.md R65). -/
def extract (o : LaneOrder) (r a : Word) (w : Width) : Option Word :=
  if fitsWord a w then some (lowBits w (r >>> placeShift o a w)) else none

/-- The pseudo-form `RD<w> <A>`: the read transaction with the canonical mask; none for an access that crosses
(30_encoding.md R65). -/
def readForm (o : LaneOrder) (w : Width) (a : Word) : Option Encoded :=
  (canonMask o a w).map fun m => encodeRead w a m

/-- The pseudo-form `WR<w> <A>, #<v>`: the write transaction with the value placed in its lanes and the canonical
mask; none for an access that crosses (30_encoding.md R65). -/
def writeForm (o : LaneOrder) (w : Width) (a v : Word) : Option Encoded :=
  match place o v a w, canonMask o a w with
  | some d, some m => some (encodeWrite w a d m)
  | _, _ => none

/-- One transaction of a CPU access: its address, width, data and mask. -/
structure CpuPart where
  addr  : Word
  width : Width
  data  : Word
  mask  : Word
  deriving DecidableEq, Repr

/-- Byte `i` in address order of a value of `width` bits (20_memory.md R32). -/
def valueByte (o : LaneOrder) (w : Width) (v : Word) (i : Nat) : Byte :=
  match o with
  | .big => v.extractLsb' (8 * (widthBytes w - 1 - i)) 8
  | .little => v.extractLsb' (8 * i) 8

/-- The narrowest width that holds `n` bytes (notes/assumptions/15.md). -/
def widthFor (n : Nat) : Width :=
  if n ≤ 1 then .w8 else if n ≤ 2 then .w16 else .w32

/-- The transaction for the `n` bytes of an access from byte `i` on, which lie in lanes `s` to `s + n - 1` of the
word of `a` (20_memory.md R42). DESIGN CHOICE: the DATA of its other lanes, which the mask leaves inactive, is 0x00
(notes/assumptions/15.md). -/
def cpuPart (o : LaneOrder) (w : Width) (v a : Word) (i s n : Nat) : CpuPart where
  addr  := a
  width := widthFor n
  data  := lanes.foldl
    (fun d k => if s ≤ k.val ∧ k.val < s + n then withLane o d k (valueByte o w v (i + (k.val - s))) else d) 0#32
  mask  := maskOfLanes o s n

/-- The transactions of a CPU access of `width` at `a` (20_memory.md R42): one when it stays within an aligned word,
one per word when it crosses; none when the second word lies above 0xFFFFFFFF (20_memory.md R41,
notes/assumptions/15.md). `v` is the value written, in its low bits. -/
def cpuParts (o : LaneOrder) (w : Width) (v a : Word) : Option (List CpuPart) :=
  let s := laneOfAddr a
  let n := widthBytes w
  if s + n ≤ 4 then some [cpuPart o w v a 0 s n]
  else if wordBase a + 4 < 2 ^ 32 then
    some [cpuPart o w v a 0 s (4 - s), cpuPart o w v (BitVec.ofNat 32 (wordBase a + 4)) (4 - s) 0 (s + n - 4)]
  else none

end Sys2Proof.Machine
end

