-- ==== Sys2Proof/Machine/Ops.lean ====
section
/-! DEFINITION. The named operations over the state: the byte stores, the store and bridge accesses, the interrupt
lines and events, refusing, and RESET with its ramdisk load. The block has no exception to take and none to return
from (60_exceptions.md R100, R112, R113): what it does instead is asserting an interrupt line, `assertLine`. -/

namespace Sys2Proof.Machine

/-- The outcome of an operation. -/
abbrev Result := Host.Outcome State Fault Refusal

/-- The byte at offset `o` of a store; an offset not listed reads 0x00 (44_backing_store.md R91,
notes/assumptions/4.md). -/
def memRead : Memory → Nat → Byte
  | [], _ => 0x00#8
  | c :: m, o => if c.1 = o then c.2 else memRead m o

/-- A store with the byte at offset `o` set to `b`, in canonical form (44_backing_store.md R91). -/
def memWrite : Memory → Nat → Byte → Memory
  | [], o, b => if b = 0x00#8 then [] else [(o, b)]
  | c :: m, o, b =>
    if o < c.1 then (if b = 0x00#8 then c :: m else (o, b) :: c :: m)
    else if c.1 = o then (if b = 0x00#8 then m else (o, b) :: m)
    else c :: memWrite m o b

/-- The store of `n` bytes that a list of (offset, byte) pairs describes, a later pair over an earlier one, every
other byte 0x00. -/
def memOfCells (n : Nat) (cells : List Host.Cell) : Memory :=
  cells.foldl (fun m c => if c.1 < n then memWrite m c.1 c.2 else m) []

/-- `StoreRead`: every in-window lane its stored byte, every other lane the open-bus byte
(44_backing_store.md R92). -/
def storeRead (c : Config) (w : Window) (m : Memory) (a : Word) : Word :=
  lanes.foldl
    (fun v k => if inWindow w a k then withLane c.laneOrder v k (memRead m (laneOffset w a k)) else v) c.openBus

/-- `StoreWrite`: each active in-window lane merged into its byte (44_backing_store.md R93). -/
def storeWrite (o : LaneOrder) (w : Window) (m : Memory) (a d mask : Word) : Memory :=
  lanes.foldl
    (fun m k =>
      if activeLane o mask k && inWindow w a k then
        memWrite m (laneOffset w a k)
          (mergeByte (memRead m (laneOffset w a k)) (lane o d k) (lane o mask k))
      else m) m

/-- The state with what a transaction returns: a value for a read, none for a write (20_memory.md R33). -/
def State.setResult (s : State) (v : Option Word) : State := { s with result := v }

/-- The state with RAM replaced. -/
def State.setRam (s : State) (m : Memory) : State := { s with ram := m }

/-- The state with the ramdisk replaced. -/
def State.setRamdisk (s : State) (m : Memory) : State := { s with ramdisk := m }

/-- The state with other bridge answers. -/
def State.setReplies (s : State) (r : Replies) : State := { s with replies := r }

/-- The state with other steps to take. -/
def State.setStream (s : State) (l : List AgentStep) : State := { s with stream := l }

/-- The state at another simulated time (10_state.md R26). -/
def State.setNow (s : State) (t : Nat) : State := { s with now := t }

/-- The state with another next pulse (10_state.md R17). -/
def State.setNextPulse (s : State) (p : Option Nat) : State := { s with nextPulse := p }

/-- The state with other asserted lines. -/
def State.setIrq (s : State) (l : List Nat) : State := { s with irq := l }

/-- `emit(e)`: `e` at the end of the event queue (10_state.md R24). -/
def State.emit (s : State) (e : Event) : State := { s with events := s.events ++ [e] }

/-- The state after more bridge calls, in order (43_bridges.md R83). -/
def State.logCalls (s : State) (l : List BridgeCall) : State := { s with bridgeCalls := s.bridgeCalls ++ l }

/-- The state with another persistent blob. -/
def State.setBlob (s : State) (b : Option Blob) : State := { s with blob := b }

/-- The state after a report to the operator (60_exceptions.md R101 (d)). -/
def State.report (s : State) (r : Report) : State := { s with reports := s.reports ++ [r] }

/-- `refuse`: no state changes but the mark on the run (00_scope.md R8, R9). -/
def State.markRefused (s : State) : State := { s with refused := true }

/-- The slot of the vector window an offset lies in: `off div 4` (41_boot_overlay.md R71). -/
def vecSlot (off : Nat) : Nat := off / 4

/-- `VEC_CONST[i]` (41_boot_overlay.md R71). -/
def slotConst (i : Nat) : Word := if i = 0 then vecConst0 else vecConst1

/-- `ovr[i]` (10_state.md R14). -/
def slotOvr (s : State) (i : Nat) : Word := if i = 0 then s.ovr0 else s.ovr1

/-- `ovr[i] <- v` (10_state.md R14). -/
def State.setSlot (s : State) (i : Nat) (v : Word) : State :=
  { s with ovr0 := if i = 0 then v else s.ovr0, ovr1 := if i = 0 then s.ovr1 else v }

/-- `irq[l]` (10_state.md R23). -/
def lineLevel (s : State) (l : Nat) : Bool :=
  decide (l ∈ s.irq)

/-- A rising list of lines with `l` among them. -/
def raiseIn : List Nat → Nat → List Nat
  | [], l => [l]
  | x :: xs, l => if l < x then l :: x :: xs else if x = l then x :: xs else x :: raiseIn xs l

/-- A list of lines without `l`. -/
def lowerIn (xs : List Nat) (l : Nat) : List Nat :=
  xs.filter fun x => decide (x ≠ l)

/-- One interrupt assertion: the line's level and its event (60_exceptions.md R103, R106, R110). -/
def assertLine (l : Nat) (s : State) : State :=
  (s.setIrq (raiseIn s.irq l)).emit (.assertLine l)

/-- A bridge's deassertion: the line's level and its event (60_exceptions.md R110). -/
def deassertLine (l : Nat) (s : State) : State :=
  (s.setIrq (lowerIn s.irq l)).emit (.deassertLine l)

/-- The line's level alone, as the CPU clears it (60_exceptions.md R109). -/
def clearLine (l : Nat) (s : State) : State :=
  s.setIrq (lowerIn s.irq l)

/-- An operation on the window of kind `k` that contains the address; any other address makes no transaction of
that operation (40_dispatch.md R66, notes/assumptions/12.md). -/
def atKind (k : Kind) (a : Word) (s : State) (f : Window → Result) : Result :=
  match lookup s.cfg.windows a with
  | some w => if w.kind = k then f w else .refused .misrouted
  | none => .refused .misrouted

/-- An operation on a serial window, with the number of its bridge (40_dispatch.md R66). -/
def atSerial (a : Word) (s : State) (f : Fin 4 → Window → Result) : Result :=
  match lookup s.cfg.windows a with
  | some w =>
    match w.kind with
    | .serial b => f b w
    | _ => .refused .misrouted
  | none => .refused .misrouted

/-- An operation on an address no window covers (40_dispatch.md R66). -/
def atUnmapped (a : Word) (s : State) (r : Result) : Result :=
  match lookup s.cfg.windows a with
  | some _ => .refused .misrouted
  | none => r

/-- Some lane reaches the bridge with a mask byte that is neither 0x00 nor 0xFF (43_bridges.md R89). -/
def nonGranular (o : LaneOrder) (ad : Adapter) (w : Window) (a mask : Word) : Bool :=
  lanes.any fun k => reaches o ad w a mask k && decide (lane o mask k ≠ 0xFF#8)

/-- The value of a bridge read: the bridge's answer in each lane that reaches it, the open-bus byte in every other
(43_bridges.md R85). -/
def bridgeValue (c : Config) (ad : Adapter) (w : Window) (a mask : Word) (r : Replies) : Word :=
  lanes.foldl
    (fun v k => if reaches c.laneOrder ad w a mask k then withLane c.laneOrder v k (replyOf r k) else v) c.openBus

/-- The calls of a bridge read, one per lane that reaches it, ascending (43_bridges.md R84, R85). -/
def bridgeReadCalls (o : LaneOrder) (ad : Adapter) (b : Bridge) (w : Window) (a mask : Word) (r : Replies) :
    List BridgeCall :=
  (lanes.filter (reaches o ad w a mask)).map fun k => .read b (bridgeReg ad w a k) (replyOf r k)

/-- The calls of a bridge write, one per lane that reaches it, ascending (43_bridges.md R84, R86). -/
def bridgeWriteCalls (o : LaneOrder) (ad : Adapter) (b : Bridge) (w : Window) (a d mask : Word) : List BridgeCall :=
  (lanes.filter (reaches o ad w a mask)).map fun k => .write b (bridgeReg ad w a k) (lane o d k)

/-- `BRIDGE_RD(b, w, T)` (43_bridges.md R85, R89). -/
def bridgeRead (b : Bridge) (w : Window) (a mask : Word) (s : State) : Result :=
  let o := s.cfg.laneOrder
  let ad := adapterOf s.cfg b
  if nonGranular o ad w a mask then .refused .nonGranularBridgeMask
  else .next ((s.logCalls (bridgeReadCalls o ad b w a mask s.replies)).setResult
    (some (bridgeValue s.cfg ad w a mask s.replies)))

/-- `BRIDGE_WR(b, w, T)` (43_bridges.md R86, R89). -/
def bridgeWrite (b : Bridge) (w : Window) (a d mask : Word) (s : State) : Result :=
  let o := s.cfg.laneOrder
  let ad := adapterOf s.cfg b
  if nonGranular o ad w a mask then .refused .nonGranularBridgeMask
  else .next ((s.logCalls (bridgeWriteCalls o ad b w a d mask)).setResult none)

/-- What a step makes of a transaction's outcome: the refusal of 43_bridges.md R89 leaves the state `s` before the
transaction with the run marked refused (00_scope.md R9, notes/assumptions/7.md). -/
def settle (s : State) (r : Result) : Result :=
  match r with
  | .refused .nonGranularBridgeMask => .next s.markRefused
  | _ => r

/-- The blob can be loaded: it exists, is exactly `RAMDISK_SIZE` bytes long and reads without error
(60_exceptions.md R120). -/
def blobLoads (c : Config) (b : Option Blob) (reads : Bool) : Bool :=
  match b with
  | some x => decide (x.length = c.ramdiskSize) && reads
  | none => false

/-- The ramdisk's contents after `LOAD_RAMDISK` (60_exceptions.md R120). -/
def loadedRamdisk (c : Config) (b : Option Blob) (reads : Bool) : Memory :=
  match b with
  | some x => if blobLoads c b reads then memOfCells c.ramdiskSize x.bytes else []
  | none => []

/-- The reports of `LOAD_RAMDISK`: one when the blob does not load (60_exceptions.md R120). -/
def loadReports (c : Config) (b : Option Blob) (reads : Bool) : List Report :=
  if blobLoads c b reads then [] else [.loadFailed]

/-- The first pulse time after reset (10_state.md R28, 70_reset_and_hazards.md R124). -/
def firstPulse (c : Config) : Option Nat :=
  match c.tickPolicy with
  | .freeRunning => some (c.tickPhase + c.tickPeriod)
  | .restartOnEnable => none

/-- RESET with the draws `d` (70_reset_and_hazards.md R124). The parameters, the blob, the operator's reports so far,
the steps still to come and the `refused` mark stay. -/
def resetState (d : PowerOn) (s : State) : State where
  cfg         := s.cfg
  ovr0        := 0x00000000#32
  ovr1        := d.ovr1
  active      := false
  enabled     := false
  nextPulse   := firstPulse s.cfg
  now         := 0
  ram         := memOfCells s.cfg.ramSize d.ram
  rom         := s.cfg.romImage
  ramdisk     := loadedRamdisk s.cfg s.blob d.blobReads
  irq         := []
  events      := []
  refused     := s.refused
  blob        := s.blob
  reports     := s.reports ++ loadReports s.cfg s.blob d.blobReads
  result      := none
  replies     := s.replies
  bridgeCalls := []
  stream      := s.stream

end Sys2Proof.Machine
end

