-- ==== Sys2Proof/Machine/Flags.lean ====
section
/-! DEFINITION. The block's two state flags, `active` and `enabled` (40_dispatch.md template, "Flags"), and every
operation that writes one: the remap trigger, `TickEnable` and `TickDisable` (42_tick_controller.md R81). The block
has no condition codes. -/

namespace Sys2Proof.Machine

/-- `active <- true` (41_boot_overlay.md R73, R74). -/
def State.activate (s : State) : State := { s with active := true }

/-- `enabled <- b` (10_state.md R16). -/
def State.setEnabled (s : State) (b : Bool) : State := { s with enabled := b }

/-- `TickEnable()` (42_tick_controller.md R81): under RESTART_ON_ENABLE an enable that finds the controller disabled
starts the schedule; under FREE_RUNNING the schedule stands. -/
def tickEnable (s : State) : State :=
  match s.cfg.tickPolicy, s.enabled with
  | .restartOnEnable, false => (s.setEnabled true).setNextPulse (some (s.now + s.cfg.tickPeriod))
  | _, _ => s.setEnabled true

/-- `TickDisable()` (42_tick_controller.md R81). -/
def tickDisable (s : State) : State :=
  match s.cfg.tickPolicy with
  | .restartOnEnable => (s.setEnabled false).setNextPulse none
  | .freeRunning => s.setEnabled false

end Sys2Proof.Machine
end

