-- ==== Sys2Proof/Machine/Bridges.lean ====
section
/-! DEFINITION. The bridge windows (43_bridges.md R85 to R89). -/

namespace Sys2Proof.Machine

/-- SERIAL_RD (43_bridges.md R85): a read of the serial bridge whose window contains the address. -/
def execSerialRd (_w : Width) (a m : Word) (s : State) : Result :=
  atSerial a s fun b v => bridgeRead (.serial b) v a m s

/-- SERIAL_WR (43_bridges.md R86): a write to the serial bridge whose window contains the address. -/
def execSerialWr (_w : Width) (a d m : Word) (s : State) : Result :=
  atSerial a s fun b v => bridgeWrite (.serial b) v a d m s

/-- STORAGE_RD (43_bridges.md R87). -/
def execStorageRd (_w : Width) (a m : Word) (s : State) : Result :=
  atKind .storage a s fun v => bridgeRead .storage v a m s

/-- STORAGE_WR (43_bridges.md R88). -/
def execStorageWr (_w : Width) (a d m : Word) (s : State) : Result :=
  atKind .storage a s fun v => bridgeWrite .storage v a d m s

end Sys2Proof.Machine
end

