-- ==== Sys2Proof/Machine/Overlay.lean ====
section
/-! DEFINITION. The boot overlay: the vector window and the remap trigger (41_boot_overlay.md R71 to R76). -/

namespace Sys2Proof.Machine

/-- VEC_RD (41_boot_overlay.md R71): the slot's constant, or its override word once `active`; the whole word
whatever the mask. -/
def execVecRd (_w : Width) (a _m : Word) (s : State) : Result :=
  atKind .vector a s fun v =>
    let i := vecSlot (offsetIn v a)
    .next (s.setResult (some (if s.active then slotOvr s i else slotConst i)))

/-- VEC_WR (41_boot_overlay.md R72): masked merge into the slot's override word, whatever `active` is. -/
def execVecWr (_w : Width) (a d m : Word) (s : State) : Result :=
  atKind .vector a s fun v =>
    let i := vecSlot (offsetIn v a)
    .next ((s.setSlot i (merge (slotOvr s i) d m)).setResult none)

/-- REMAP_RD (41_boot_overlay.md R73): activates the overlay and reads 0, whatever mask, width and offset. -/
def execRemapRd (_w : Width) (a _m : Word) (s : State) : Result :=
  atKind .remap a s fun _ => .next (s.activate.setResult (some 0x00000000#32))

/-- REMAP_WR (41_boot_overlay.md R74): activates the overlay; the data is ignored. -/
def execRemapWr (_w : Width) (a _d _m : Word) (s : State) : Result :=
  atKind .remap a s fun _ => .next (s.activate.setResult none)

end Sys2Proof.Machine
end

