-- ==== Sys2Proof/Machine/Stores.lean ====
section
/-! DEFINITION. The backing stores: general RAM, the ROM image, the ramdisk (44_backing_store.md R94 to R99). -/

namespace Sys2Proof.Machine

/-- RAM_RD (44_backing_store.md R94). -/
def execRamRd (_w : Width) (a _m : Word) (s : State) : Result :=
  atKind .ram a s fun v => .next (s.setResult (some (storeRead s.cfg v s.ram a)))

/-- RAM_WR (44_backing_store.md R95). -/
def execRamWr (_w : Width) (a d m : Word) (s : State) : Result :=
  atKind .ram a s fun v => .next ((s.setRam (storeWrite s.cfg.laneOrder v s.ram a d m)).setResult none)

/-- ROM_RD (44_backing_store.md R96). -/
def execRomRd (_w : Width) (a _m : Word) (s : State) : Result :=
  atKind .rom a s fun v => .next (s.setResult (some (storeRead s.cfg v s.rom a)))

/-- ROM_WR (44_backing_store.md R97): silently discarded. -/
def execRomWr (_w : Width) (a _d _m : Word) (s : State) : Result :=
  atKind .rom a s fun _ => .next (s.setResult none)

/-- RAMDISK_RD (44_backing_store.md R98). -/
def execRamdiskRd (_w : Width) (a _m : Word) (s : State) : Result :=
  atKind .ramdisk a s fun v => .next (s.setResult (some (storeRead s.cfg v s.ramdisk a)))

/-- RAMDISK_WR (44_backing_store.md R99). -/
def execRamdiskWr (_w : Width) (a d m : Word) (s : State) : Result :=
  atKind .ramdisk a s fun v =>
    .next ((s.setRamdisk (storeWrite s.cfg.laneOrder v s.ramdisk a d m)).setResult none)

end Sys2Proof.Machine
end

