-- ==== Sys2Proof/Machine/Tick.lean ====
section
/-! DEFINITION. The tick controller's enable and disable windows (42_tick_controller.md R77 to R80). -/

namespace Sys2Proof.Machine

/-- TICKON_RD (42_tick_controller.md R77): enables the tick controller and reads 0. -/
def execTickonRd (_w : Width) (a _m : Word) (s : State) : Result :=
  atKind .tickOn a s fun _ => .next ((tickEnable s).setResult (some 0x00000000#32))

/-- TICKON_WR (42_tick_controller.md R78): enables the tick controller; the data is ignored. -/
def execTickonWr (_w : Width) (a _d _m : Word) (s : State) : Result :=
  atKind .tickOn a s fun _ => .next ((tickEnable s).setResult none)

/-- TICKOFF_RD (42_tick_controller.md R79): disables the tick controller and reads 0. -/
def execTickoffRd (_w : Width) (a _m : Word) (s : State) : Result :=
  atKind .tickOff a s fun _ => .next ((tickDisable s).setResult (some 0x00000000#32))

/-- TICKOFF_WR (42_tick_controller.md R80): disables the tick controller; the data is ignored. -/
def execTickoffWr (_w : Width) (a _d _m : Word) (s : State) : Result :=
  atKind .tickOff a s fun _ => .next ((tickDisable s).setResult none)

end Sys2Proof.Machine
end

