-- ==== Sys2Proof/Machine/Unmapped.lean ====
section
/-! DEFINITION. The operations at an address no window covers: open bus (40_dispatch.md R67, R68). -/

namespace Sys2Proof.Machine

/-- UNMAPPED_RD (40_dispatch.md R67): `OPEN_BUS_VALUE` in all four lanes, whatever the mask and width. -/
def execUnmappedRd (_w : Width) (a _m : Word) (s : State) : Result :=
  atUnmapped a s (.next (s.setResult (some s.cfg.openBus)))

/-- UNMAPPED_WR (40_dispatch.md R68): the write is discarded. -/
def execUnmappedWr (_w : Width) (a _d _m : Word) (s : State) : Result :=
  atUnmapped a s (.next (s.setResult none))

end Sys2Proof.Machine
end

