-- ==== Sys2Proof/Machine/Dispatch.lean ====
section
/-! DEFINITION. The dispatcher's one switch over the operation (40_dispatch.md R66, 30_encoding.md R58). -/

namespace Sys2Proof.Machine

def exec (i : Instr) (s : State) : Host.Outcome State Fault Refusal :=
  match i with
  | .unmappedRd w a m => Sys2Proof.Machine.execUnmappedRd w a m s
  | .unmappedWr w a d m => Sys2Proof.Machine.execUnmappedWr w a d m s
  | .vecRd w a m => Sys2Proof.Machine.execVecRd w a m s
  | .vecWr w a d m => Sys2Proof.Machine.execVecWr w a d m s
  | .remapRd w a m => Sys2Proof.Machine.execRemapRd w a m s
  | .remapWr w a d m => Sys2Proof.Machine.execRemapWr w a d m s
  | .tickonRd w a m => Sys2Proof.Machine.execTickonRd w a m s
  | .tickonWr w a d m => Sys2Proof.Machine.execTickonWr w a d m s
  | .tickoffRd w a m => Sys2Proof.Machine.execTickoffRd w a m s
  | .tickoffWr w a d m => Sys2Proof.Machine.execTickoffWr w a d m s
  | .serialRd w a m => Sys2Proof.Machine.execSerialRd w a m s
  | .serialWr w a d m => Sys2Proof.Machine.execSerialWr w a d m s
  | .storageRd w a m => Sys2Proof.Machine.execStorageRd w a m s
  | .storageWr w a d m => Sys2Proof.Machine.execStorageWr w a d m s
  | .ramRd w a m => Sys2Proof.Machine.execRamRd w a m s
  | .ramWr w a d m => Sys2Proof.Machine.execRamWr w a d m s
  | .romRd w a m => Sys2Proof.Machine.execRomRd w a m s
  | .romWr w a d m => Sys2Proof.Machine.execRomWr w a d m s
  | .ramdiskRd w a m => Sys2Proof.Machine.execRamdiskRd w a m s
  | .ramdiskWr w a d m => Sys2Proof.Machine.execRamdiskWr w a d m s

end Sys2Proof.Machine
end

