-- ==== Sys2Proof/Machine/Agents.lean ====
section
/-! DEFINITION. What each agent's step does (00_scope.md R5): the CPU's transaction and CLEAR, the tick controller's
PULSE, the bridges' own steps, and the host's steps (60_exceptions.md R106 to R121, 70_reset_and_hazards.md R124).
The state given to each is the one whose `stream` no longer holds the step. -/

namespace Sys2Proof.Machine

/-- A bus transaction: decoded under the window table and run (40_dispatch.md R66). A TH that encodes no transaction
is refused and leaves the run marked (30_encoding.md R61, notes/assumptions/7.md). -/
def stepBus (x : Encoded) (r : Replies) (s : State) : Result :=
  match decode s.cfg.windows x with
  | .ok i => settle s (exec i (s.setReplies r))
  | .error _ => .next s.markRefused

/-- CLEAR(l) (60_exceptions.md R109): the level falls and no event is emitted. -/
def stepClear (l : Nat) (s : State) : Result :=
  .next (clearLine l s)

/-- What a due pulse at time `p` does (60_exceptions.md R106). -/
def pulseEffect (p : Nat) (s : State) : State :=
  (if s.enabled then assertLine s.cfg.tickLine s else s).setNextPulse (some (p + s.cfg.tickPeriod))

/-- PULSE (60_exceptions.md R106): a step only when `next_pulse` is `now` (notes/assumptions/8.md). -/
def stepPulse (s : State) : Result :=
  match s.nextPulse with
  | some p => if s.now = p then .next (pulseEffect p s) else .refused .pulseNotDue
  | none => .refused .pulseNotDue

/-- BRIDGE_ASSERT (60_exceptions.md R110). -/
def stepBridgeAssert (b : Bridge) (s : State) : Result :=
  .next (assertLine (bridgeLine s.cfg b) s)

/-- BRIDGE_DEASSERT (60_exceptions.md R110). -/
def stepBridgeDeassert (b : Bridge) (s : State) : Result :=
  .next (deassertLine (bridgeLine s.cfg b) s)

/-- Transmit, the display bridge's own step (43_bridges.md R90, 60_exceptions.md R110). -/
def stepTransmit (v : Byte) (s : State) : Result :=
  .next (s.emit (.transmit s.cfg.displayBridge v))

/-- TIME(t) may be taken: not backwards, and not past a pending pulse (60_exceptions.md R119). -/
def timeAllowed (t : Nat) (s : State) : Bool :=
  match s.nextPulse with
  | some p => decide (s.now ≤ t) && decide (t ≤ p)
  | none => decide (s.now ≤ t)

/-- TIME(t) (60_exceptions.md R119, notes/assumptions/8.md). -/
def stepTime (t : Nat) (s : State) : Result :=
  if timeAllowed t s then .next (s.setNow t) else .refused .timeNotAllowed

/-- The steps ADVANCE t begins with: the next pulse due by `t`, then the rest of ADVANCE, or TIME(t) when no pulse is
due any more (60_exceptions.md R119). -/
def advanceSteps (t : Nat) (s : State) : List AgentStep :=
  match s.nextPulse with
  | some p => if p ≤ t then [.time p, .pulse, .advance t] else [.time t]
  | none => [.time t]

/-- ADVANCE t (60_exceptions.md R119): put before the steps still to come (notes/assumptions/1.md). -/
def stepAdvance (t : Nat) (s : State) : Result :=
  .next (s.setStream (advanceSteps t s ++ s.stream))

/-- RESET, power-on or restart (70_reset_and_hazards.md R124, 60_exceptions.md R122). -/
def stepReset (d : PowerOn) (s : State) : Result :=
  .next (resetState d s)

/-- SAVE_RAMDISK (60_exceptions.md R121). -/
def stepSave (s : State) : Result :=
  .next (s.setBlob (some ⟨s.cfg.ramdiskSize, s.ramdisk⟩))

/-- A save that fails: reported, and nothing changes on the bus (60_exceptions.md R121, notes/assumptions/11.md). -/
def stepSaveFails (left : Option Blob) (s : State) : Result :=
  .next ((s.setBlob left).report .saveFailed)

/-- Tear down: the run ends and no further step happens (60_exceptions.md R118). -/
def stepTearDown (s : State) : Result :=
  .next (s.setStream [])

/-- One agent's step. -/
def agentStep (g : AgentStep) (s : State) : Result :=
  match g with
  | .bus x r => stepBus x r s
  | .clear l => stepClear l s
  | .pulse => stepPulse s
  | .bridgeAssert b => stepBridgeAssert b s
  | .bridgeDeassert b => stepBridgeDeassert b s
  | .transmit v => stepTransmit v s
  | .time t => stepTime t s
  | .advance t => stepAdvance t s
  | .reset d => stepReset d s
  | .saveRamdisk => stepSave s
  | .saveFails left => stepSaveFails left s
  | .tearDown => stepTearDown s

end Sys2Proof.Machine
end

