-- ==== Sys2Proof/Machine/Step.lean ====
section
/-! DEFINITION. One step of the machine: the next step of the stream of agents' steps (10_state.md R18,
20_memory.md R46), and where a transaction is placed to be the next one. -/

namespace Sys2Proof.Machine

/-- The next step of the stream is taken, atomically (20_memory.md R45, R46). With no step left nothing happens
(notes/assumptions/1.md). -/
def step (s : State) : Host.Outcome State Fault Refusal :=
  match s.stream with
  | [] => .next s
  | g :: rest => agentStep g (s.setStream rest)

/-- `s` with the transaction of a table word as the next step (notes/assumptions/1.md, 16.md). -/
def State.withFetchWord (s : State) (nbits w : Nat) : State :=
  s.setStream (.bus (assemble (tableBytes nbits w)) s.replies :: s.stream)

end Sys2Proof.Machine
end

