-- ==== Sys2Proof/Safety.lean ====
section
/-! DEFINITION. What a good state is, in the terms the claims use: the invariant every step keeps, and a run that no
refusal has marked. -/

namespace Sys2Proof.Machine

/-- The stores keep their canonical form and length, and ROM is the image (10_state.md R22, 44_backing_store.md R97). -/
abbrev State.storesOk (s : State) : Prop :=
  memoryWf s.ram = true ∧ memoryWithin s.cfg.ramSize s.ram = true ∧ s.rom = s.cfg.romImage
    ∧ memoryWf s.ramdisk = true ∧ memoryWithin s.cfg.ramdiskSize s.ramdisk = true

/-- A list of lines is rising. -/
def rising : List Nat → Bool
  | [] => true
  | x :: xs => (xs.all fun y => decide (x < y)) && rising xs

/-- The asserted lines are rising, and each is one of the six assigned lines (10_state.md R23, 60_exceptions.md
R104). -/
abbrev State.linesOk (s : State) : Prop :=
  rising s.irq = true ∧ (s.irq.all fun l => decide (l ∈ allLines s.cfg)) = true

/-- `next_pulse` is as the policy has it (10_state.md R17, 60_exceptions.md R105): on the fixed schedule under
FREE_RUNNING; present exactly while enabled, and at most a period ahead, under RESTART_ON_ENABLE. Time has not passed
it (60_exceptions.md R119). -/
def State.scheduleOk (s : State) : Bool :=
  match s.cfg.tickPolicy, s.nextPulse with
  | .freeRunning, some p =>
    decide (s.now ≤ p) && decide (s.cfg.tickPhase + s.cfg.tickPeriod ≤ p)
      && decide ((p - s.cfg.tickPhase) % s.cfg.tickPeriod = 0)
  | .freeRunning, none => false
  | .restartOnEnable, some p =>
    s.enabled && decide (s.now ≤ p) && decide (p ≤ s.now + s.cfg.tickPeriod)
  | .restartOnEnable, none => !s.enabled

/-- The invariant: well-formed parameters, and the state as the spec says it stays. -/
abbrev State.Inv (s : State) : Prop :=
  s.cfg.wf = true ∧ s.storesOk ∧ s.linesOk ∧ s.scheduleOk = true

/-- No refusal has marked the run (00_scope.md R9). -/
abbrev State.unmarked (s : State) : Prop := s.refused = false

end Sys2Proof.Machine
end

