-- ==== Sys2Proof/Certificates/Slice0/Obligations.lean ====
section
/-! DEFINITION. The statements about the model, each over every state (so over every window table and every value of
the other parameters) unless it says otherwise. A `next` outcome is written out in full, so each such statement is
also the frame: whatever the record update does not name is unchanged. Where a rule rests on a decision of the spec
(92_eei_decisions.md) or on a choice of the model (notes/assumptions), the docstring says so. -/

open Sys2Proof Sys2Proof.Machine

/-! ## Encoding (30_encoding.md) -/

/-- Decoding an encoded well-formed transaction gives it back, with every operand at every value (30_encoding.md R56,
R57, R58; the encoding is the spec's own, decision D19). -/
def Obligations.DecodeOfEncodeGivesTheTransaction : Prop :=
  ∀ (tbl : List Window) (i : Instr), i.wf tbl = true → decode tbl (encode i) = .ok i

/-- The other direction (30_encoding.md R57, R58): what is decoded is a transaction of the table, and encoding it
again gives the same header, address and mask, and the same data on a write; a read's DATA field is the one field
that is ignored, and it is encoded as 0x00000000. -/
def Obligations.EncodeOfDecodeGivesTheFields : Prop :=
  ∀ (tbl : List Window) (x : Encoded) (i : Instr), decode tbl x = .ok i →
    i.wf tbl = true ∧ headerField (encode i) = headerField x ∧ addressField (encode i) = addressField x
      ∧ i.addr = addressField x ∧ maskField (encode i) = maskField x
      ∧ dataField (encode i) = if (headerField x).getLsbD 7 then dataField x else 0x00000000#32

/-- The byte form agrees with the 104-bit form: the 13 bytes of a well-formed transaction, TH first, decode to it
(30_encoding.md R57, R63). -/
def Obligations.DecodeOfTheThirteenBytes : Prop :=
  ∀ (tbl : List Window) (i : Instr), i.wf tbl = true →
    (encodeBytes i).length = 13 ∧ decodeBytes tbl (encodeBytes i) = .ok i

/-- Exactly the reserved headers are refused: `WID = 11` or a bit of TH[4:0] set (30_encoding.md R61, decisions D19
and D29). The address, data and mask never make a transaction illegal (R62). -/
def Obligations.OnlyReservedHeadersAreRefused : Prop :=
  ∀ (tbl : List Window) (x : Encoded),
    (∃ e, decode tbl x = .error e)
      ↔ ((headerField x).extractLsb' 0 5 ≠ 0 ∨ (headerField x).extractLsb' 5 2 = 3)

/-- Some words written out from the spec's encoding (95_test_vectors.md S1, S2, S3, S4, X4, B3, V7) decode, under the
illustrative table, to the operations they stand for. -/
def Obligations.WordsOfTheSpecDecode : Prop :=
  decode exampleWindows 0x4000000004_00000000_FFFFFFFF#104 = .ok (.vecRd .w32 0x00000004 0xFFFFFFFF)
    ∧ decode exampleWindows 0xC0FF000000_DEADBEEF_FFFFFFFF#104 = .ok (.remapWr .w32 0xFF000000 0xDEADBEEF 0xFFFFFFFF)
    ∧ decode exampleWindows 0xC0FF000004_00000000_FFFFFFFF#104 = .ok (.tickonWr .w32 0xFF000004 0x00000000 0xFFFFFFFF)
    ∧ decode exampleWindows 0x80FF000016_0000C300_0000FF00#104 = .ok (.storageWr .w8 0xFF000016 0x0000C300 0x0000FF00)
    ∧ decode exampleWindows 0x0080000000_00000000_00000000#104 = .ok (.unmappedRd .w8 0x80000000 0x00000000)
    ∧ decode exampleWindows 0xA0FF000022_0000ABCD_0000FFFF#104 = .ok (.serialWr .w16 0xFF000022 0x0000ABCD 0x0000FFFF)
    ∧ decode exampleWindows 0xC000000000_FFFFFFFF_0F0F0F0F#104 = .ok (.vecWr .w32 0x00000000 0xFFFFFFFF 0x0F0F0F0F)

/-! ## Routing (20_memory.md R36 to R38, 40_dispatch.md R66) -/

/-- `lookup(A)` is the window of the table that contains `A`, `NONE` exactly when there is no such window, and it does
not depend on the search order (20_memory.md R38). -/
def Obligations.LookupFindsTheWindowOfTheAddress : Prop :=
  ∀ (tbl : List Window) (a : Word), windowsDisjoint tbl = true →
    (∀ w, lookup tbl a = some w ↔ w ∈ tbl ∧ w.start.toNat ≤ a.toNat ∧ a.toNat ≤ w.stop.toNat)
      ∧ (lookup tbl a = none ↔ ∀ w ∈ tbl, ¬ (w.start.toNat ≤ a.toNat ∧ a.toNat ≤ w.stop.toNat))
      ∧ ∀ tbl' : List Window, tbl'.Perm tbl → lookup tbl' a = lookup tbl a

/-- A transaction at the head of the stream that decodes runs: the step is `exec` of it in the state without it, with
the bridges' answers in place, but for what `settle` makes of a refusal (40_dispatch.md R66, 20_memory.md R45; the
stream is the model's, notes/assumptions/1.md). Bits that are no transaction leave the state but for the mark
(30_encoding.md R61, notes/assumptions/7.md). -/
def Obligations.StepRunsTheDecodedTransaction : Prop :=
  ∀ (s : State) (x : Encoded) (r : Replies) (rest : List AgentStep), s.stream = .bus x r :: rest →
    (∀ i, decode s.cfg.windows x = .ok i →
      step s = settle { s with stream := rest } (exec i { s with stream := rest, replies := r }))
      ∧ (∀ e, decode s.cfg.windows x = .error e → step s = .next { s with stream := rest, refused := true })

/-- Every transaction has a step: whatever the 104 bits, the state and the parameters, the step goes on
(30_encoding.md R62, 60_exceptions.md R100: a bus access never raises a fault; that a refused one goes on marked is
the model's, notes/assumptions/7.md). Its effect is `exec`'s own, or else the mark alone, and that only when its bits
are reserved (R61) or `exec` refuses its bridge mask (43_bridges.md R89). -/
def Obligations.EveryTransactionHasAStep : Prop :=
  ∀ (s : State) (x : Encoded) (r : Replies) (rest : List AgentStep), s.stream = .bus x r :: rest →
    ∃ t, step s = .next t
      ∧ ((∃ i, decode s.cfg.windows x = .ok i ∧ exec i { s with stream := rest, replies := r } = .next t)
        ∨ (t = { s with stream := rest, refused := true }
          ∧ ((∃ e, decode s.cfg.windows x = .error e)
            ∨ ∃ i, decode s.cfg.windows x = .ok i
              ∧ exec i { s with stream := rest, replies := r } = .refused .nonGranularBridgeMask)))

/-- A term whose address does not lie in a window of its kind is no transaction (30_encoding.md R58); the model refuses
it (the model's choice, notes/assumptions/12.md). -/
def Obligations.MisroutedTermsAreRefused : Prop :=
  ∀ (i : Instr) (s : State), i.wf s.cfg.windows = false → exec i s = .refused .misrouted

/-! ## Unmapped addresses (40_dispatch.md) -/

/-- UNMAPPED_RD returns `OPEN_BUS_VALUE` in all four lanes and changes nothing (40_dispatch.md R67; the value is a
parameter, decision D2). -/
def Obligations.UnmappedReadReturnsOpenBus : Prop :=
  ∀ (w : Width) (a m : Word) (s : State), lookup s.cfg.windows a = none →
    exec (.unmappedRd w a m) s = .next { s with result := some s.cfg.openBus }

/-- UNMAPPED_WR changes nothing and returns nothing (40_dispatch.md R68). -/
def Obligations.UnmappedWriteIsDiscarded : Prop :=
  ∀ (w : Width) (a d m : Word) (s : State), lookup s.cfg.windows a = none →
    exec (.unmappedWr w a d m) s = .next { s with result := none }

/-! ## The boot overlay (41_boot_overlay.md) -/

/-- VEC_RD: the constant of the slot while `active` is false, its override word while it is true, the whole word
whatever the mask; nothing else changes (41_boot_overlay.md R71). That the inactive lanes hold the slot's bytes too is
decision D6 (40_dispatch.md R70, notes/assumptions/17.md). -/
def Obligations.VectorReadReturnsConstantOrOverride : Prop :=
  ∀ (w : Width) (a m : Word) (s : State), s.cfg.wf = true → a.toNat ≤ 7 →
    exec (.vecRd w a m) s = .next { s with
      result := some (if s.active = true then (if a.toNat ≤ 3 then s.ovr0 else s.ovr1)
        else if a.toNat ≤ 3 then 0x00000000#32 else 0xFE000494#32) }

/-- VEC_WR: masked merge into the slot's override word whatever `active` is; the other slot and everything else stay
(41_boot_overlay.md R72). -/
def Obligations.VectorWriteMergesIntoTheSlot : Prop :=
  ∀ (w : Width) (a d m : Word) (s : State), s.cfg.wf = true → a.toNat ≤ 7 →
    exec (.vecWr w a d m) s = .next { s with
      ovr0 := if a.toNat ≤ 3 then (s.ovr0 &&& ~~~m) ||| (d &&& m) else s.ovr0
      ovr1 := if a.toNat ≤ 3 then s.ovr1 else (s.ovr1 &&& ~~~m) ||| (d &&& m)
      result := none }

/-- REMAP_RD and REMAP_WR set `active` and nothing else; the read returns 0 and the write ignores its data
(41_boot_overlay.md R73, R74; that mask, width and offset make no difference is decision D14). -/
def Obligations.RemapAccessActivates : Prop :=
  ∀ (w : Width) (a d m : Word) (s : State) (v : Window), lookup s.cfg.windows a = some v → v.kind = .remap →
    exec (.remapRd w a m) s = .next { s with active := true, result := some 0x00000000#32 }
      ∧ exec (.remapWr w a d m) s = .next { s with active := true, result := none }

/-- Once `active`, every step but a RESET keeps it (41_boot_overlay.md R75, 10_state.md R15). -/
def Obligations.ActiveStaysUntilReset : Prop :=
  ∀ (s t : State), s.active = true → (∀ d rest, s.stream ≠ .reset d :: rest) → step s = .next t → t.active = true

/-- Only a REMAP access activates the overlay (10_state.md R15, 90_conflicts.md C1). -/
def Obligations.OnlyRemapAccessesActivate : Prop :=
  ∀ (s t : State), s.active = false → step s = .next t → t.active = true →
    ∃ x r rest i, s.stream = .bus x r :: rest ∧ decode s.cfg.windows x = .ok i
      ∧ ((∃ w a m, i = .remapRd w a m) ∨ ∃ w a d m, i = .remapWr w a d m)

/-! ## The tick controller (42_tick_controller.md, 60_exceptions.md) -/

/-- TICKON_RD and TICKON_WR enable the tick controller; under RESTART_ON_ENABLE an enable that finds it disabled sets
the next pulse a period ahead; the line, the events and everything else stay (42_tick_controller.md R77, R78, R81,
R82; the policy is decision D11, the indifference to the mask decision D14). -/
def Obligations.TickEnableAccessEnables : Prop :=
  ∀ (w : Width) (a d m : Word) (s : State) (v : Window), lookup s.cfg.windows a = some v → v.kind = .tickOn →
    let p := if s.cfg.tickPolicy = .restartOnEnable ∧ s.enabled = false then some (s.now + s.cfg.tickPeriod)
      else s.nextPulse
    exec (.tickonRd w a m) s = .next { s with enabled := true, nextPulse := p, result := some 0x00000000#32 }
      ∧ exec (.tickonWr w a d m) s = .next { s with enabled := true, nextPulse := p, result := none }

/-- TICKOFF_RD and TICKOFF_WR disable the tick controller; under RESTART_ON_ENABLE the schedule ends; an asserted line
stays asserted (42_tick_controller.md R79 to R82; decisions D11 and D14). -/
def Obligations.TickDisableAccessDisables : Prop :=
  ∀ (w : Width) (a d m : Word) (s : State) (v : Window), lookup s.cfg.windows a = some v → v.kind = .tickOff →
    let p := if s.cfg.tickPolicy = .restartOnEnable then none else s.nextPulse
    exec (.tickoffRd w a m) s = .next { s with enabled := false, nextPulse := p, result := some 0x00000000#32 }
      ∧ exec (.tickoffWr w a d m) s = .next { s with enabled := false, nextPulse := p, result := none }

/-- PULSE at the time it is due: while `enabled` it asserts the tick line and emits one `AssertLine`, else it asserts
nothing; the next pulse is a period later; no other line and nothing else changes. At any other time there is no such
step, and time does not advance past the next pulse (60_exceptions.md R106, R119; the clock is decision D28; that a
PULSE or TIME out of turn has no next state is the model's reading, notes/assumptions/8.md). -/
def Obligations.DuePulseAssertsTheTickLine : Prop :=
  ∀ (s : State) (rest : List AgentStep), s.stream = .pulse :: rest →
    (s.nextPulse = some s.now →
      ∃ t, step s = .next t
        ∧ t = { s with
            stream := rest
            nextPulse := some (s.now + s.cfg.tickPeriod)
            irq := t.irq
            events := if s.enabled = true then s.events ++ [.assertLine s.cfg.tickLine] else s.events }
        ∧ (∀ l, lineLevel t l = true ↔ lineLevel s l = true ∨ (s.enabled = true ∧ l = s.cfg.tickLine)))
    ∧ (s.nextPulse ≠ some s.now → ∀ t, step s ≠ .next t)
    ∧ ∀ p n, s.nextPulse = some p → p < n → ∀ t, step { s with stream := .time n :: rest } ≠ .next t

/-- CLEAR(l) makes the line's level false, emits no event and changes nothing else; a pulse after it, while `enabled`,
asserts the line again (60_exceptions.md R109). -/
def Obligations.ClearLowersOneLine : Prop :=
  ∀ (s : State) (l : Nat) (rest : List AgentStep), s.stream = .clear l :: rest →
    ∃ t, step s = .next t ∧ t = { s with stream := rest, irq := t.irq }
      ∧ (∀ j, lineLevel t j = true ↔ lineLevel s j = true ∧ j ≠ l)
      ∧ (l = s.cfg.tickLine → s.enabled = true → s.nextPulse = some s.now →
        ∃ u, step { t with stream := [.pulse] } = .next u ∧ lineLevel u l = true)

/-- A bridge's own steps: BRIDGE_ASSERT and BRIDGE_DEASSERT move its line alone and emit their event, Transmit emits
one byte of the display bridge (60_exceptions.md R110, 43_bridges.md R90; when they happen is free, decision D31). -/
def Obligations.BridgeStepsMoveTheirOwnLine : Prop :=
  ∀ (s : State) (b : Bridge) (v : Byte) (rest : List AgentStep),
    (s.stream = .bridgeAssert b :: rest →
      ∃ t, step s = .next t
        ∧ t = { s with stream := rest, irq := t.irq, events := s.events ++ [.assertLine (bridgeLine s.cfg b)] }
        ∧ ∀ l, lineLevel t l = true ↔ lineLevel s l = true ∨ l = bridgeLine s.cfg b)
    ∧ (s.stream = .bridgeDeassert b :: rest →
      ∃ t, step s = .next t
        ∧ t = { s with stream := rest, irq := t.irq, events := s.events ++ [.deassertLine (bridgeLine s.cfg b)] }
        ∧ ∀ l, lineLevel t l = true ↔ lineLevel s l = true ∧ l ≠ bridgeLine s.cfg b)
    ∧ (s.stream = .transmit v :: rest →
      step s = .next { s with stream := rest, events := s.events ++ [.transmit s.cfg.displayBridge v] })

/-- TIME(t) moves `now` to `t` when `t` is not in the past and not after the pending pulse (60_exceptions.md R119,
decision D28); otherwise it is not a step and the model refuses it, as it refuses a PULSE that is not due
(notes/assumptions/8.md). -/
def Obligations.TimeStopsAtThePendingPulse : Prop :=
  ∀ (s : State) (t : Nat) (rest : List AgentStep),
    (s.stream = .time t :: rest →
      (s.now ≤ t → (∀ p, s.nextPulse = some p → t ≤ p) → step s = .next { s with stream := rest, now := t })
      ∧ (t < s.now ∨ (∃ p, s.nextPulse = some p ∧ p < t) → step s = .refused .timeNotAllowed))
    ∧ (s.stream = .pulse :: rest → s.nextPulse ≠ some s.now → step s = .refused .pulseNotDue)

/-- ADVANCE t takes one PULSE for each scheduled pulse time up to and including `t`: with the next pulse at `p` and
`t = p + n * TICK_PERIOD + r`, it makes `n + 1` assertions while enabled and none while disabled, leaves the schedule
a period after the last pulse and `now` at `t`, and touches nothing but the tick line (60_exceptions.md R107, R119;
source property P4 and scenario S3; decision D28). The number of machine steps, `3 * (n + 1) + 2`, is that of the form
in which the model expands ADVANCE (notes/assumptions/1.md). -/
def Obligations.AdvanceAssertsOncePerPeriod : Prop :=
  ∀ (s : State) (rest : List AgentStep) (p n r : Nat),
    s.stream = .advance (p + n * s.cfg.tickPeriod + r) :: rest → s.nextPulse = some p → s.now ≤ p →
    r < s.cfg.tickPeriod →
    ∃ u : State, Host.Core.run Sys2Proof.core (3 * (n + 1) + 2) s = .next u
      ∧ u = { s with
          stream := rest
          now := p + n * s.cfg.tickPeriod + r
          nextPulse := some (p + (n + 1) * s.cfg.tickPeriod)
          irq := u.irq
          events := if s.enabled = true then s.events ++ List.replicate (n + 1) (.assertLine s.cfg.tickLine)
            else s.events }
      ∧ ∀ l, lineLevel u l = true ↔ lineLevel s l = true ∨ (s.enabled = true ∧ l = s.cfg.tickLine)

/-- ADVANCE t with no pulse due by `t` is TIME(t) (60_exceptions.md R119, decision D28). That it takes two machine
steps is the form in which the model expands ADVANCE (notes/assumptions/1.md). -/
def Obligations.AdvanceWithNoPulseDueIsTime : Prop :=
  ∀ (s : State) (t : Nat) (rest : List AgentStep), s.stream = .advance t :: rest → s.now ≤ t →
    (∀ p, s.nextPulse = some p → t < p) →
    Host.Core.run Sys2Proof.core 2 s = .next { s with stream := rest, now := t }

/-- `enabled` changes only through its two windows, or RESET: an access to TICK_ON sets it, one to TICK_OFF clears it
(10_state.md R16). -/
def Obligations.EnabledChangesOnlyThroughItsWindows : Prop :=
  ∀ (s t : State), (∀ d rest, s.stream ≠ .reset d :: rest) → step s = .next t → t.enabled ≠ s.enabled →
    ∃ x r rest i, s.stream = .bus x r :: rest ∧ decode s.cfg.windows x = .ok i
      ∧ ((t.enabled = true ∧ kindAt s.cfg.windows i.addr = some .tickOn)
        ∨ (t.enabled = false ∧ kindAt s.cfg.windows i.addr = some .tickOff))

/-- An interrupt line falls only when the CPU clears it, its bridge deasserts it, or RESET; it rises only when its
bridge asserts it or, the tick line, at a pulse while `enabled` (10_state.md R23, 60_exceptions.md R103, R104;
decisions D16 and D17). -/
def Obligations.LinesMoveOnlyByTheirOwners : Prop :=
  ∀ (s t : State) (l : Nat), step s = .next t →
    (lineLevel s l = true → lineLevel t l = false →
      (∃ rest, s.stream = .clear l :: rest)
      ∨ (∃ b rest, s.stream = .bridgeDeassert b :: rest ∧ bridgeLine s.cfg b = l)
      ∨ ∃ d rest, s.stream = .reset d :: rest)
    ∧ (lineLevel s l = false → lineLevel t l = true →
      (∃ b rest, s.stream = .bridgeAssert b :: rest ∧ bridgeLine s.cfg b = l)
      ∨ ∃ rest, s.stream = .pulse :: rest ∧ s.enabled = true ∧ l = s.cfg.tickLine ∧ s.nextPulse = some s.now)

/-! ## The bridges (43_bridges.md) -/

/-- SERIAL_RD with every reaching lane's mask byte 0xFF: one `BridgeRead` per lane that reaches the bridge, in
ascending order; the result holds the bridge's answer in those lanes and the open-bus byte in the others
(43_bridges.md R84, R85; decisions D6 and D15). The answers are whatever the bridge gives (`replies`,
notes/assumptions/6.md). -/
def Obligations.SerialReadCallsTheBridge : Prop :=
  ∀ (w : Width) (a m : Word) (s : State) (v : Window) (b : Fin 4),
    lookup s.cfg.windows a = some v → v.kind = .serial b →
    (∀ k, reaches s.cfg.laneOrder (adapterOf s.cfg (.serial b)) v a m k = true →
      lane s.cfg.laneOrder m k = 0xFF#8) →
    ∃ y, exec (.serialRd w a m) s = .next { s with
          result := some y
          bridgeCalls := s.bridgeCalls ++
            (lanes.filter (reaches s.cfg.laneOrder (adapterOf s.cfg (.serial b)) v a m)).map fun k =>
              .read (.serial b) (bridgeReg (adapterOf s.cfg (.serial b)) v a k) (replyOf s.replies k) }
      ∧ ∀ k, lane s.cfg.laneOrder y k
          = if reaches s.cfg.laneOrder (adapterOf s.cfg (.serial b)) v a m k = true then replyOf s.replies k
            else lane s.cfg.laneOrder s.cfg.openBus k

/-- STORAGE_RD: as SERIAL_RD, on the storage bridge (43_bridges.md R84, R87; decisions D6 and D15). -/
def Obligations.StorageReadCallsTheBridge : Prop :=
  ∀ (w : Width) (a m : Word) (s : State) (v : Window),
    lookup s.cfg.windows a = some v → v.kind = .storage →
    (∀ k, reaches s.cfg.laneOrder s.cfg.adapters.storage v a m k = true → lane s.cfg.laneOrder m k = 0xFF#8) →
    ∃ y, exec (.storageRd w a m) s = .next { s with
          result := some y
          bridgeCalls := s.bridgeCalls ++
            (lanes.filter (reaches s.cfg.laneOrder s.cfg.adapters.storage v a m)).map fun k =>
              .read .storage (bridgeReg s.cfg.adapters.storage v a k) (replyOf s.replies k) }
      ∧ ∀ k, lane s.cfg.laneOrder y k
          = if reaches s.cfg.laneOrder s.cfg.adapters.storage v a m k = true then replyOf s.replies k
            else lane s.cfg.laneOrder s.cfg.openBus k

/-- SERIAL_WR and STORAGE_WR with every reaching lane's mask byte 0xFF: one `BridgeWrite` per lane that reaches the
bridge, in ascending order, each with the lane's data byte; nothing else changes (43_bridges.md R84, R86, R88;
decision D15). -/
def Obligations.BridgeWritesCallTheBridge : Prop :=
  ∀ (w : Width) (a d m : Word) (s : State) (v : Window), lookup s.cfg.windows a = some v →
    (∀ b, v.kind = .serial b →
      (∀ k, reaches s.cfg.laneOrder (adapterOf s.cfg (.serial b)) v a m k = true →
        lane s.cfg.laneOrder m k = 0xFF#8) →
      exec (.serialWr w a d m) s = .next { s with
        result := none
        bridgeCalls := s.bridgeCalls ++
          (lanes.filter (reaches s.cfg.laneOrder (adapterOf s.cfg (.serial b)) v a m)).map fun k =>
            .write (.serial b) (bridgeReg (adapterOf s.cfg (.serial b)) v a k) (lane s.cfg.laneOrder d k) })
    ∧ (v.kind = .storage →
      (∀ k, reaches s.cfg.laneOrder s.cfg.adapters.storage v a m k = true → lane s.cfg.laneOrder m k = 0xFF#8) →
      exec (.storageWr w a d m) s = .next { s with
        result := none
        bridgeCalls := s.bridgeCalls ++
          (lanes.filter (reaches s.cfg.laneOrder s.cfg.adapters.storage v a m)).map fun k =>
            .write .storage (bridgeReg s.cfg.adapters.storage v a k) (lane s.cfg.laneOrder d k) })

/-- A bridge transaction with a reaching lane whose mask byte is neither 0x00 nor 0xFF is refused: no bridge call and
no state change but the mark on the run (43_bridges.md R89, decision D7; notes/assumptions/7.md). -/
def Obligations.NonGranularBridgeMasksAreRefused : Prop :=
  ∀ (w : Width) (a d m : Word) (s : State) (v : Window) (k : Fin 4), lookup s.cfg.windows a = some v →
    lane s.cfg.laneOrder m k ≠ 0xFF#8 →
    (∀ b, v.kind = .serial b → reaches s.cfg.laneOrder (adapterOf s.cfg (.serial b)) v a m k = true →
      exec (.serialRd w a m) s = .refused .nonGranularBridgeMask
        ∧ exec (.serialWr w a d m) s = .refused .nonGranularBridgeMask)
    ∧ (v.kind = .storage → reaches s.cfg.laneOrder s.cfg.adapters.storage v a m k = true →
      exec (.storageRd w a m) s = .refused .nonGranularBridgeMask
        ∧ exec (.storageWr w a d m) s = .refused .nonGranularBridgeMask)
    ∧ settle s (.refused .nonGranularBridgeMask) = .next { s with refused := true }

/-- A single-byte write with the canonical mask, under the spec's own adapter, reaches exactly one register of the
storage bridge: the one at the address (43_bridges.md R88, source scenario S4; decision D15). -/
def Obligations.StorageByteWriteReachesOneRegister : Prop :=
  ∀ (a d m : Word) (s : State) (v : Window), lookup s.cfg.windows a = some v → v.kind = .storage →
    s.cfg.adapters.storage = ⟨⟨true, true, true, true⟩, .one⟩ → canonMask s.cfg.laneOrder a .w8 = some m →
    ∃ k : Fin 4, k.val = a.toNat % 4
      ∧ exec (.storageWr .w8 a d m) s = .next { s with
          result := none
          bridgeCalls := s.bridgeCalls ++
            [.write .storage (a.toNat - v.start.toNat) (lane s.cfg.laneOrder d k)] }

/-! ## The backing stores (44_backing_store.md) -/

/-- RAM_RD, ROM_RD and RAMDISK_RD change nothing and return, in every in-window lane, the stored byte whatever the
mask, and the open-bus byte in every other lane (44_backing_store.md R92, R94, R96, R98; decisions D6 and D8). -/
def Obligations.StoreReadsReturnTheStoredBytes : Prop :=
  ∀ (w : Width) (a m : Word) (s : State) (v : Window), lookup s.cfg.windows a = some v →
    (v.kind = .ram →
      ∃ y, exec (.ramRd w a m) s = .next { s with result := some y }
        ∧ ∀ k, lane s.cfg.laneOrder y k
            = if inWindow v a k = true then memRead s.ram (laneAddr a k - v.start.toNat)
              else lane s.cfg.laneOrder s.cfg.openBus k)
    ∧ (v.kind = .rom →
      ∃ y, exec (.romRd w a m) s = .next { s with result := some y }
        ∧ ∀ k, lane s.cfg.laneOrder y k
            = if inWindow v a k = true then memRead s.rom (laneAddr a k - v.start.toNat)
              else lane s.cfg.laneOrder s.cfg.openBus k)
    ∧ (v.kind = .ramdisk →
      ∃ y, exec (.ramdiskRd w a m) s = .next { s with result := some y }
        ∧ ∀ k, lane s.cfg.laneOrder y k
            = if inWindow v a k = true then memRead s.ramdisk (laneAddr a k - v.start.toNat)
              else lane s.cfg.laneOrder s.cfg.openBus k)

/-- RAM_WR merges each active in-window lane into its byte of RAM; every other byte of RAM, and everything else, stays
(44_backing_store.md R93, R95; decisions D7 and D8). RAM is in canonical form before and after. -/
def Obligations.RamWriteMergesActiveLanes : Prop :=
  ∀ (w : Width) (a d m : Word) (s : State) (v : Window), lookup s.cfg.windows a = some v → v.kind = .ram →
    memoryWf s.ram = true →
    ∃ x, exec (.ramWr w a d m) s = .next { s with ram := x, result := none }
      ∧ memoryWf x = true
      ∧ (∀ k, activeLane s.cfg.laneOrder m k = true → inWindow v a k = true →
          memRead x (laneAddr a k - v.start.toNat)
            = (memRead s.ram (laneAddr a k - v.start.toNat) &&& ~~~(lane s.cfg.laneOrder m k))
              ||| (lane s.cfg.laneOrder d k &&& lane s.cfg.laneOrder m k))
      ∧ ∀ o, (∀ k, activeLane s.cfg.laneOrder m k = true → inWindow v a k = true →
            o ≠ laneAddr a k - v.start.toNat) → memRead x o = memRead s.ram o

/-- RAMDISK_WR: as RAM_WR, on the ramdisk; the persistent blob does not change (44_backing_store.md R93, R99;
decisions D7 and D8). -/
def Obligations.RamdiskWriteMergesActiveLanes : Prop :=
  ∀ (w : Width) (a d m : Word) (s : State) (v : Window), lookup s.cfg.windows a = some v → v.kind = .ramdisk →
    memoryWf s.ramdisk = true →
    ∃ x, exec (.ramdiskWr w a d m) s = .next { s with ramdisk := x, result := none }
      ∧ memoryWf x = true
      ∧ (∀ k, activeLane s.cfg.laneOrder m k = true → inWindow v a k = true →
          memRead x (laneAddr a k - v.start.toNat)
            = (memRead s.ramdisk (laneAddr a k - v.start.toNat) &&& ~~~(lane s.cfg.laneOrder m k))
              ||| (lane s.cfg.laneOrder d k &&& lane s.cfg.laneOrder m k))
      ∧ ∀ o, (∀ k, activeLane s.cfg.laneOrder m k = true → inWindow v a k = true →
            o ≠ laneAddr a k - v.start.toNat) → memRead x o = memRead s.ramdisk o

/-- ROM_WR changes nothing, at every width and mask (44_backing_store.md R97). -/
def Obligations.RomWriteIsDiscarded : Prop :=
  ∀ (w : Width) (a d m : Word) (s : State) (v : Window), lookup s.cfg.windows a = some v → v.kind = .rom →
    exec (.romWr w a d m) s = .next { s with result := none }

/-- Writing the same masked value twice to the vector window, RAM or the ramdisk leaves what writing it once leaves
(20_memory.md R35, R47, source property P3). -/
def Obligations.RepeatedWritesAreIdempotent : Prop :=
  ∀ (i : Instr) (s t : State),
    ((∃ w a d m, i = .vecWr w a d m) ∨ (∃ w a d m, i = .ramWr w a d m) ∨ ∃ w a d m, i = .ramdiskWr w a d m) →
    memoryWf s.ram = true → memoryWf s.ramdisk = true → exec i s = .next t → exec i t = .next t

/-- What RAM_WR stores is what RAM_RD at the same address then returns in the active in-window lanes, whatever the
widths and the read's mask (44_backing_store.md R92, R94, R95, 20_memory.md R46; decisions D7 and D8). That the lanes
the read's mask leaves inactive hold their stored bytes is decision D6 (40_dispatch.md R70,
notes/assumptions/17.md). -/
def Obligations.RamReadAfterWriteReturnsTheMerge : Prop :=
  ∀ (w w' : Width) (a d m m' : Word) (s : State) (v : Window), lookup s.cfg.windows a = some v → v.kind = .ram →
    memoryWf s.ram = true →
    ∃ t u y, exec (.ramWr w a d m) s = .next t ∧ exec (.ramRd w' a m') t = .next u ∧ u.result = some y
      ∧ u.ram = t.ram
      ∧ ∀ k, inWindow v a k = true → lane s.cfg.laneOrder y k
          = if activeLane s.cfg.laneOrder m k = true then
              mergeByte (memRead s.ram (laneAddr a k - v.start.toNat)) (lane s.cfg.laneOrder d k)
                (lane s.cfg.laneOrder m k)
            else memRead s.ram (laneAddr a k - v.start.toNat)

/-! ## Operands (20_memory.md R35, 30_encoding.md R60, R65) -/

/-- Masked merge: bits where the mask is 0 keep their old value, bits where it is 1 take the data; it is idempotent,
and at byte granularity it is the merge of each lane (20_memory.md R35). -/
def Obligations.MaskedMergeIsBitwiseAndIdempotent : Prop :=
  ∀ (o : LaneOrder) (old d m : Word),
    merge old d m = (old &&& ~~~m) ||| (d &&& m)
      ∧ (∀ i < 32, (merge old d m).getLsbD i = if m.getLsbD i = true then d.getLsbD i else old.getLsbD i)
      ∧ merge (merge old d m) d m = merge old d m
      ∧ ∀ k, lane o (merge old d m) k = (lane o old k &&& ~~~(lane o m k)) ||| (lane o d k &&& lane o m k)

/-- The canonical mask names the bytes of the access and no others: lane `k` is 0xFF exactly when `A <= W + k` and
`W + k < A + n`, and there is none exactly when the access crosses an aligned word (30_encoding.md R60; decisions
D4 and D5). -/
def Obligations.CanonicalMaskNamesTheBytesOfTheAccess : Prop :=
  ∀ (o : LaneOrder) (a : Word) (w : Width),
    (canonMask o a w = none ↔ 4 < a.toNat % 4 + widthBytes w)
      ∧ ∀ m, canonMask o a w = some m →
          ∀ k, lane o m k = if a.toNat ≤ laneAddr a k ∧ laneAddr a k < a.toNat + widthBytes w then 0xFF#8 else 0x00#8

/-- `Place` and `Extract` are defined exactly when the access stays within an aligned word, `s + n <= 4`, and
`Extract` undoes `Place` on the low bits of the value, whatever a store held in the other lanes: what a CPU reads back
from a word the placed value was merged into is the value (30_encoding.md R65, R60; decision D20). -/
def Obligations.ExtractUndoesPlace : Prop :=
  ∀ (o : LaneOrder) (v a old : Word) (w : Width),
    (place o v a w = none ↔ 4 < a.toNat % 4 + widthBytes w)
      ∧ (extract o old a w = none ↔ 4 < a.toNat % 4 + widthBytes w)
      ∧ ∀ d m, place o v a w = some d → canonMask o a w = some m →
        extract o (merge old d m) a w = some (lowBits w v)

/-- The split of a CPU access (20_memory.md R42, decision D5). There is one transaction for each aligned word the
access touches: one at `A` when it stays within a word, one at `A` and one at `W + 4` when it crosses. The active lanes
of the parts are exactly the bytes of the access, and each carries its byte of the value. The widths of the parts, and
that an access past 0xFFFFFFFF has no transactions, are the model's (notes/assumptions/15.md). -/
def Obligations.SplitPartsCoverTheAccess : Prop :=
  ∀ (o : LaneOrder) (w : Width) (v a : Word),
    ((∃ ps, cpuParts o w v a = some ps)
      ↔ a.toNat % 4 + widthBytes w ≤ 4 ∨ a.toNat - a.toNat % 4 + 4 < 2 ^ 32)
    ∧ ∀ ps, cpuParts o w v a = some ps →
      (a.toNat % 4 + widthBytes w ≤ 4 → ∃ p, ps = [p] ∧ p.addr = a)
      ∧ (4 < a.toNat % 4 + widthBytes w →
        ∃ p q, ps = [p, q] ∧ p.addr = a ∧ q.addr.toNat = a.toNat - a.toNat % 4 + 4
          ∧ wordBase q.addr = wordBase p.addr + 4)
      ∧ (∀ p ∈ ps, ∀ k, lane o p.mask k = 0x00#8
        ∨ (lane o p.mask k = 0xFF#8 ∧ ∃ i < widthBytes w, laneAddr p.addr k = a.toNat + i
            ∧ lane o p.data k = valueByte o w v i))
      ∧ ∀ i < widthBytes w, ∃ p ∈ ps, ∃ k, lane o p.mask k = 0xFF#8 ∧ laneAddr p.addr k = a.toNat + i

/-! ## The host (60_exceptions.md R118 to R122, 70_reset_and_hazards.md) -/

/-- RESET gives every field of the block its reset value, the draws for OVR1_INIT and RAM_INIT, and the ramdisk from
the blob if it loads, else zeros with a report; the parameters, the blob, the mark and the steps to come stay
(70_reset_and_hazards.md R124, 10_state.md R28, 60_exceptions.md R120; decisions D9 to D12, D17, D18, D23, D27). The
draws are data of the step (notes/assumptions/5.md), the reports are the model's record (11.md), and the model's own
`result` and `bridgeCalls` are emptied and its `replies` kept (9.md, 10.md, 6.md). -/
def Obligations.ResetGivesTheResetValues : Prop :=
  ∀ (s : State) (d : PowerOn) (rest : List AgentStep), s.stream = .reset d :: rest →
    memoryWf d.ram = true → memoryWithin s.cfg.ramSize d.ram = true →
    (∀ b, s.blob = some b → memoryWf b.bytes = true ∧ memoryWithin b.length b.bytes = true) →
    ∃ t, step s = .next t
      ∧ t.ovr0 = 0x00000000#32 ∧ t.ovr1 = d.ovr1 ∧ t.active = false ∧ t.enabled = false ∧ t.now = 0
      ∧ t.nextPulse = (if s.cfg.tickPolicy = .freeRunning then some (s.cfg.tickPhase + s.cfg.tickPeriod) else none)
      ∧ t.ram = d.ram ∧ t.rom = s.cfg.romImage ∧ t.irq = [] ∧ t.events = []
      ∧ t.cfg = s.cfg ∧ t.refused = s.refused ∧ t.blob = s.blob ∧ t.stream = rest
      ∧ t.result = none ∧ t.bridgeCalls = [] ∧ t.replies = s.replies
      ∧ (∀ b, s.blob = some b → b.length = s.cfg.ramdiskSize → d.blobReads = true →
          t.ramdisk = b.bytes ∧ t.reports = s.reports)
      ∧ ((∀ b, s.blob = some b → b.length ≠ s.cfg.ramdiskSize ∨ d.blobReads = false) →
          (∀ o, memRead t.ramdisk o = 0x00#8) ∧ t.reports = s.reports ++ [.loadFailed])

/-- What RESET leaves, at State.reset: the values of 10_state.md R28 that the spec gives (decisions D10, D11, D12, D17,
D28 among them). That the ramdisk reads 0x00 follows from R28 and decision D23 only because State.reset has no blob to
load, which is the model's choice (notes/assumptions/11.md). -/
def Obligations.ResetStateHoldsTheSpecsValues : Prop :=
  State.reset.ovr0 = 0x00000000#32 ∧ State.reset.active = false ∧ State.reset.enabled = false
    ∧ State.reset.nextPulse = some (State.reset.cfg.tickPhase + State.reset.cfg.tickPeriod)
    ∧ State.reset.now = 0 ∧ State.reset.rom = State.reset.cfg.romImage
    ∧ (∀ o, memRead State.reset.ramdisk o = 0x00#8) ∧ (∀ l, lineLevel State.reset l = false)
    ∧ State.reset.events = [] ∧ State.reset.refused = false

/-- After RESET the vector window reads the constants, at every address of it (70_reset_and_hazards.md R125,
41_boot_overlay.md R71, source property P2 and scenario S1), and every line is deasserted and the tick controller
disabled. -/
def Obligations.VectorWindowReadsConstantsAfterReset : Prop :=
  ∀ (s : State) (d : PowerOn) (rest : List AgentStep), s.cfg.wf = true → s.stream = .reset d :: rest →
    ∃ t, step s = .next t ∧ t.enabled = false ∧ (∀ l, lineLevel t l = false)
      ∧ ∀ (w : Width) (a m : Word), a.toNat ≤ 7 →
          exec (.vecRd w a m) t
            = .next { t with result := some (if a.toNat ≤ 3 then 0x00000000#32 else 0xFE000494#32) }

/-- SAVE_RAMDISK changes no state of the block, and a RESET whose blob reads without error restores what was saved:
the ramdisk survives a power cycle (60_exceptions.md R120, R121, R122; decisions D23 and D27). That nothing is
reported follows from R120 and the model's choice that RESET keeps the reports made before it
(notes/assumptions/11.md). -/
def Obligations.SavedRamdiskSurvivesAPowerCycle : Prop :=
  ∀ (s : State) (d : PowerOn) (rest : List AgentStep), s.stream = .saveRamdisk :: .reset d :: rest →
    memoryWf s.ramdisk = true → memoryWithin s.cfg.ramdiskSize s.ramdisk = true → d.blobReads = true →
    ∃ t u, step s = .next t ∧ t = { s with stream := .reset d :: rest, blob := t.blob }
      ∧ step t = .next u ∧ u.ramdisk = s.ramdisk ∧ u.reports = s.reports

/-- A save that fails is reported and changes nothing on the bus (60_exceptions.md R121; what the blob then is, is any
value, notes/assumptions/11.md). Tear down ends the run: no step is left (60_exceptions.md R118,
notes/assumptions/1.md), and with no step left nothing changes. -/
def Obligations.FailedSaveAndTearDownTouchNoBlockState : Prop :=
  ∀ (s : State) (left : Option Blob) (rest : List AgentStep),
    (s.stream = .saveFails left :: rest →
      step s = .next { s with stream := rest, blob := left, reports := s.reports ++ [.saveFailed] })
    ∧ (s.stream = .tearDown :: rest → step s = .next { s with stream := [] })
    ∧ (s.stream = [] → step s = .next s)

/-! ## Every step -/

/-- What no transaction changes: the parameters (10_state.md R21), the time (R26), ROM (44_backing_store.md R97), the
interrupt lines and the events, which only a pulse, a bridge, CLEAR or the host writes (R12, R23, R24), the mark, which
a transaction sets only by being refused (R12, 00_scope.md R9), and the blob and the reports, which only the host's
steps touch (60_exceptions.md R120, R121). That the model's own `replies` and `stream` stay is the model's
(notes/assumptions/6.md and 1.md), as is the form of the reports (11.md). -/
def Obligations.TransactionsLeaveTheRestAlone : Prop :=
  ∀ (i : Instr) (s t : State), exec i s = .next t →
    t.cfg = s.cfg ∧ t.now = s.now ∧ t.rom = s.rom ∧ t.irq = s.irq ∧ t.events = s.events ∧ t.refused = s.refused
      ∧ t.blob = s.blob ∧ t.reports = s.reports ∧ t.replies = s.replies ∧ t.stream = s.stream

/-- No effect and no value depends on the width of a transaction, nor, on a read, on its DATA: two transactions that
agree in direction, address and mask, and on a write in data, do the same from every state (20_memory.md R44,
30_encoding.md R57, R58; decision D4). -/
def Obligations.WidthAndReadDataHaveNoEffect : Prop :=
  ∀ (s : State) (x y : Encoded) (i j : Instr), decode s.cfg.windows x = .ok i → decode s.cfg.windows y = .ok j →
    (headerField x).getLsbD 7 = (headerField y).getLsbD 7 → addressField x = addressField y →
    maskField x = maskField y → ((headerField x).getLsbD 7 = true → dataField x = dataField y) →
    exec i s = exec j s

/-- Each store and the override words change only through the writes of their own window, or RESET: a RAM write never
changes `ovr`, ROM never changes at all, and no read changes any of them (10_state.md R14, R22, 90_conflicts.md C9,
44_backing_store.md R95, R97, R99). -/
def Obligations.StoresChangeOnlyThroughTheirWindow : Prop :=
  ∀ (s t : State), (∀ d rest, s.stream ≠ .reset d :: rest) → step s = .next t →
    t.rom = s.rom
      ∧ (t.ram ≠ s.ram → ∃ x r rest w a d m, s.stream = .bus x r :: rest
          ∧ decode s.cfg.windows x = .ok (.ramWr w a d m))
      ∧ (t.ramdisk ≠ s.ramdisk → ∃ x r rest w a d m, s.stream = .bus x r :: rest
          ∧ decode s.cfg.windows x = .ok (.ramdiskWr w a d m))
      ∧ (t.ovr0 ≠ s.ovr0 ∨ t.ovr1 ≠ s.ovr1 → ∃ x r rest w a d m, s.stream = .bus x r :: rest
          ∧ decode s.cfg.windows x = .ok (.vecWr w a d m))

/-- No step changes the window table or any other parameter (10_state.md R21, 40_dispatch.md R69). -/
def Obligations.NoStepChangesTheParameters : Prop :=
  ∀ (s t : State), step s = .next t → t.cfg = s.cfg

/-- Time never goes back but by RESET (10_state.md R26), and the event queue only grows at its end but by RESET
(10_state.md R24). -/
def Obligations.TimeAndEventsOnlyGrow : Prop :=
  ∀ (s t : State), (∀ d rest, s.stream ≠ .reset d :: rest) → step s = .next t →
    s.now ≤ t.now ∧ ∃ l, t.events = s.events ++ l

/-- The mark of a refused run stays, RESET included (00_scope.md R9, 70_reset_and_hazards.md R124), and only a
transaction sets it, changing nothing else (00_scope.md R8; notes/assumptions/7.md). -/
def Obligations.RefusedMarkStays : Prop :=
  ∀ (s t : State), step s = .next t →
    (s.refused = true → t.refused = true)
      ∧ (s.refused = false → t.refused = true →
          ∃ x r rest, s.stream = .bus x r :: rest ∧ t = { s with stream := rest, refused := true })

/-- The reset state meets the invariant (its parameters are the model's, notes/assumptions/2.md and 13.md). -/
def Obligations.ResetStateMeetsTheInvariant : Prop :=
  State.reset.Inv

/-- Every step keeps the invariant: the parameters stay well formed, RAM and the ramdisk stay in canonical form and
within their lengths, ROM stays the image, the asserted lines are among the six assigned ones, and the pulse schedule
stays as the policy has it, with time never past a pending pulse (20_memory.md R36, 10_state.md R17, R21 to R23,
44_backing_store.md R91, R97, 60_exceptions.md R104, R105, R119). -/
def Obligations.EveryStepKeepsTheInvariant : Prop :=
  ∀ (s t : State), s.Inv → step s = .next t → t.Inv

/-! ## The adapter (43_bridges.md R84) -/

/-- Which lanes reach a bridge, and the register each reaches, for every adapter: `reach(k)` is an active lane, in
window, and in the adapter's lane set; `reg(k)` is `((W + k) - start) div 1` or `div 4`. The lanes are taken in
ascending order, and each bridge has the adapter of its own window (43_bridges.md R84, 20_memory.md R34, R43;
decision D15). -/
def Obligations.BridgeLanesAndRegistersFollowTheAdapter : Prop :=
  (∀ (o : LaneOrder) (ad : Adapter) (v : Window) (a m : Word) (k : Fin 4),
    (reaches o ad v a m k = true
      ↔ lane o m k ≠ 0x00#8
        ∧ (v.start.toNat ≤ a.toNat - a.toNat % 4 + k.val ∧ a.toNat - a.toNat % 4 + k.val ≤ v.stop.toNat)
        ∧ [ad.lanes.lane0, ad.lanes.lane1, ad.lanes.lane2, ad.lanes.lane3][k.val]? = some true)
    ∧ (reaches o ad v a m k = true →
      (ad.stride = .one → bridgeReg ad v a k = a.toNat - a.toNat % 4 + k.val - v.start.toNat)
      ∧ (ad.stride = .four → bridgeReg ad v a k = (a.toNat - a.toNat % 4 + k.val - v.start.toNat) / 4)))
  ∧ lanes = [0, 1, 2, 3]
  ∧ ∀ c : Config, adapterOf c (.serial 0) = c.adapters.serial0 ∧ adapterOf c (.serial 1) = c.adapters.serial1
    ∧ adapterOf c (.serial 2) = c.adapters.serial2 ∧ adapterOf c (.serial 3) = c.adapters.serial3
    ∧ adapterOf c .storage = c.adapters.storage
end

