-- ==== Sys2Proof/Laws/Decode.lean ====
section
/-! SUPPORT. The fields of an encoded transaction read back what the encoder put there, and the bytes of 104 bits
assemble to them again. -/

namespace Sys2Proof

theorem header_append (th : Byte) (a d m : Word) : headerField (th ++ a ++ d ++ m) = th := by
  ext i hi
  rw [headerField, BitVec.getElem_extractLsb', BitVec.getLsbD_append, if_neg (by omega), BitVec.getLsbD_append,
    if_neg (by omega), BitVec.getLsbD_append, if_neg (by omega), ← BitVec.getLsbD_eq_getElem]
  congr 1
  omega

theorem address_append (th : Byte) (a d m : Word) : addressField (th ++ a ++ d ++ m) = a := by
  ext i hi
  rw [addressField, BitVec.getElem_extractLsb', BitVec.getLsbD_append, if_neg (by omega), BitVec.getLsbD_append,
    if_neg (by omega), BitVec.getLsbD_append, if_pos (by omega), ← BitVec.getLsbD_eq_getElem]
  congr 1
  omega

theorem data_append (th : Byte) (a d m : Word) : dataField (th ++ a ++ d ++ m) = d := by
  ext i hi
  rw [dataField, BitVec.getElem_extractLsb', BitVec.getLsbD_append, if_neg (by omega), BitVec.getLsbD_append,
    if_pos (by omega), ← BitVec.getLsbD_eq_getElem]
  congr 1
  omega

theorem mask_append (th : Byte) (a d m : Word) : maskField (th ++ a ++ d ++ m) = m := by
  ext i hi
  rw [maskField, BitVec.getElem_extractLsb', BitVec.getLsbD_append, if_pos (by omega), ← BitVec.getLsbD_eq_getElem]
  congr 1
  omega

/-- The header the encoder writes has no reserved bit, its width and its direction (30_encoding.md R56). -/
theorem headerByte_fields (b : Bool) (w : Width) :
    (headerByte b w).extractLsb' 0 5 = 0 ∧ widthOfBits ((headerByte b w).extractLsb' 5 2) = some w
      ∧ (headerByte b w).getLsbD 7 = b := by
  cases b <;> cases w <;> decide

theorem byte_step (n k : Nat) : n / 2 ^ (k + 8) * 256 + n / 2 ^ k % 256 = n / 2 ^ k := by
  rw [Nat.pow_add, ← Nat.div_div_eq_div_mul]
  omega

/-- The 13 bytes of 104 bits assemble to them again (30_encoding.md R57). -/
theorem assemble_bytesOf (x : Encoded) : assemble (bytesOf x) = x := by
  apply BitVec.eq_of_toNat_eq
  have hx := x.isLt
  have h12 : x.toNat / 2 ^ 96 % 256 = x.toNat / 2 ^ 96 := Nat.mod_eq_of_lt (by omega)
  simp only [assemble, bytesOf, encodedByte, List.range, List.range.loop, List.map, List.foldl, BitVec.toNat_ofNat,
    BitVec.extractLsb'_toNat, Nat.shiftRight_eq_div_pow]
  show (((((((((((((0 * 256 + x.toNat / 2 ^ 96 % 256) * 256 + x.toNat / 2 ^ 88 % 256) * 256
    + x.toNat / 2 ^ 80 % 256) * 256 + x.toNat / 2 ^ 72 % 256) * 256 + x.toNat / 2 ^ 64 % 256) * 256
    + x.toNat / 2 ^ 56 % 256) * 256 + x.toNat / 2 ^ 48 % 256) * 256 + x.toNat / 2 ^ 40 % 256) * 256
    + x.toNat / 2 ^ 32 % 256) * 256 + x.toNat / 2 ^ 24 % 256) * 256 + x.toNat / 2 ^ 16 % 256) * 256
    + x.toNat / 2 ^ 8 % 256) * 256 + x.toNat / 2 ^ 0 % 256) % 2 ^ 104 = x.toNat
  rw [Nat.zero_mul, Nat.zero_add, h12, byte_step _ 88, byte_step _ 80, byte_step _ 72, byte_step _ 64, byte_step _ 56,
    byte_step _ 48, byte_step _ 40, byte_step _ 32, byte_step _ 24, byte_step _ 16, byte_step _ 8, byte_step _ 0,
    Nat.pow_zero, Nat.div_one, Nat.mod_eq_of_lt hx]

end Sys2Proof
end

