-- ==== Sys2Proof/Laws/Lanes.lean ====
section
/-! SUPPORT. Byte lanes: a lane reads back what was put into it, the others stay, and a word is its four lanes. -/

namespace Sys2Proof.Machine

theorem mem_lanes (k : Fin 4) : k ∈ lanes := by
  revert k; decide

theorem lanes_nodup : lanes.Nodup := by decide

theorem laneShift_le (o : LaneOrder) (k : Fin 4) : laneShift o k ≤ 24 := by
  cases o <;> (simp only [laneShift]; omega)

theorem laneShift_apart (o : LaneOrder) {j k : Fin 4} (h : j ≠ k) :
    laneShift o j + 8 ≤ laneShift o k ∨ laneShift o k + 8 ≤ laneShift o j := by
  have : j.val ≠ k.val := fun e => h (Fin.ext e)
  cases o <;> (simp only [laneShift]; omega)

/-- Every bit of a word lies in some lane. -/
theorem laneShift_covers (o : LaneOrder) {i : Nat} (hi : i < 32) :
    ∃ k : Fin 4, ∃ j, j < 8 ∧ i = laneShift o k + j := by
  cases o
  · exact ⟨⟨3 - i / 8, by omega⟩, i % 8, by omega, by simp only [laneShift]; omega⟩
  · exact ⟨⟨i / 8, by omega⟩, i % 8, by omega, by simp only [laneShift]; omega⟩

theorem getLsbD_byteMask (j : Nat) : (0xFF#32).getLsbD j = decide (j < 8) := by
  by_cases h : j < 32
  · interval_cases j <;> rfl
  · rw [BitVec.getLsbD_of_ge _ _ (by omega)]
    simp only [Bool.false_eq, decide_eq_false_iff_not]
    omega

@[simp] theorem lane_withLane_same (o : LaneOrder) (v : Word) (k : Fin 4) (b : Byte) :
    lane o (withLane o v k b) k = b := by
  have hs := laneShift_le o k
  ext i hi
  have h1 : laneShift o k + i < 32 := by omega
  have h3 : laneShift o k + i - laneShift o k = i := by omega
  simp [lane, withLane, getLsbD_byteMask, h1, h3, hi, BitVec.getLsbD_eq_getElem]

theorem lane_withLane_other (o : LaneOrder) (v : Word) {j k : Fin 4} (b : Byte) (h : j ≠ k) :
    lane o (withLane o v k b) j = lane o v j := by
  have hs := laneShift_le o j
  ext i hi
  have h1 : laneShift o j + i < 32 := by omega
  rcases laneShift_apart o h with hd | hd
  · have h2 : laneShift o j + i < laneShift o k := by omega
    simp [lane, withLane, h1, h2]
  · have h3 : ¬ laneShift o j + i - laneShift o k < 8 := by omega
    have h5 : b.getLsbD (laneShift o j + i - laneShift o k) = false := BitVec.getLsbD_of_ge _ _ (by omega)
    simp only [lane, withLane, BitVec.getElem_extractLsb', BitVec.getLsbD_or, BitVec.getLsbD_and, BitVec.getLsbD_not,
      BitVec.getLsbD_shiftLeft, getLsbD_byteMask, BitVec.getLsbD_setWidth]
    simp [h1, h3, h5]

/-- Two words with the same four lanes are equal. -/
theorem word_ext_lanes (o : LaneOrder) {v w : Word} (h : ∀ k, lane o v k = lane o w k) : v = w := by
  ext i hi
  rw [← BitVec.getLsbD_eq_getElem, ← BitVec.getLsbD_eq_getElem]
  obtain ⟨k, j, hj, rfl⟩ := laneShift_covers o hi
  have := congrArg (fun x => x.getLsbD j) (h k)
  simpa [lane, hj] using this

/-- Filling some lanes of a word: each chosen lane holds its byte, every other lane stays. -/
theorem lane_fill (o : LaneOrder) (p : Fin 4 → Bool) (f : Fin 4 → Byte) (ks : List (Fin 4)) (hk : ks.Nodup)
    (v : Word) (j : Fin 4) :
    lane o (ks.foldl (fun v k => if p k then withLane o v k (f k) else v) v) j
      = if j ∈ ks ∧ p j = true then f j else lane o v j := by
  induction ks generalizing v with
  | nil => simp
  | cons k ks ih =>
    obtain ⟨hkn, hk⟩ := List.nodup_cons.1 hk
    rw [List.foldl_cons, ih hk]
    by_cases hj : j = k
    · subst hj
      by_cases hp : p j <;> simp [hkn, hp]
    · by_cases hp : p k <;> simp [hj, hp, lane_withLane_other o v (f k) hj]

/-- Merging words is merging each lane (20_memory.md R35). -/
theorem lane_merge (o : LaneOrder) (v d m : Word) (k : Fin 4) :
    lane o (merge v d m) k = mergeByte (lane o v k) (lane o d k) (lane o m k) := by
  have hs := laneShift_le o k
  ext i hi
  have h1 : laneShift o k + i < 32 := by omega
  simp [lane, merge, mergeByte, h1]

theorem merge_idem (v d m : Word) : merge (merge v d m) d m = merge v d m := by
  ext i hi
  simp only [merge, BitVec.getElem_or, BitVec.getElem_and, BitVec.getElem_not]
  cases v[i] <;> cases d[i] <;> cases m[i] <;> rfl

theorem mergeByte_idem (v d m : Byte) : mergeByte (mergeByte v d m) d m = mergeByte v d m := by
  ext i hi
  simp only [mergeByte, BitVec.getElem_or, BitVec.getElem_and, BitVec.getElem_not]
  cases v[i] <;> cases d[i] <;> cases m[i] <;> rfl

theorem merge_zero_mask (v d : Word) : merge v d 0#32 = v := by
  rw [merge, BitVec.not_zero, BitVec.and_allOnes, BitVec.and_zero, BitVec.or_zero]

theorem merge_full_mask (v d : Word) : merge v d 0xFFFFFFFF#32 = d := by
  have h : 0xFFFFFFFF#32 = BitVec.allOnes 32 := by decide
  rw [h, merge, BitVec.not_allOnes, BitVec.and_zero, BitVec.and_allOnes, BitVec.zero_or]

theorem mergeByte_zero_mask (v d : Byte) : mergeByte v d 0#8 = v := by
  rw [mergeByte, BitVec.not_zero, BitVec.and_allOnes, BitVec.and_zero, BitVec.or_zero]

theorem mergeByte_full_mask (v d : Byte) : mergeByte v d 0xFF#8 = d := by
  have h : 0xFF#8 = BitVec.allOnes 8 := by decide
  rw [h, mergeByte, BitVec.not_allOnes, BitVec.and_zero, BitVec.and_allOnes, BitVec.zero_or]

/-- `W = A - A mod 4` (20_memory.md R30). -/
theorem wordBase_eq (a : Word) : wordBase a = a.toNat - a.toNat % 4 := by
  have h : a &&& 0xFFFFFFFC#32 = (a >>> 2) <<< 2 := by
    ext i hi
    have hm : (0xFFFFFFFC#32).getLsbD i = decide (2 ≤ i) := by interval_cases i <;> rfl
    rw [BitVec.getLsbD_eq_getElem hi] at hm
    by_cases h2 : 2 ≤ i
    · have : 2 + (i - 2) = i := by omega
      simp [hm, h2, show ¬ i < 2 by omega, this, BitVec.getLsbD_eq_getElem hi]
    · simp [hm, h2, show i < 2 by omega]
  have ha := a.isLt
  rw [wordBase, h, BitVec.toNat_shiftLeft, BitVec.toNat_ushiftRight, Nat.shiftRight_eq_div_pow,
    Nat.shiftLeft_eq, Nat.mod_eq_of_lt (by omega)]
  omega

theorem wordBase_mod (a : Word) : wordBase a % 4 = 0 := by
  rw [wordBase_eq]; omega

theorem laneAddr_injective (a : Word) {j k : Fin 4} (h : laneAddr a j = laneAddr a k) : j = k := by
  simp only [laneAddr] at h
  exact Fin.ext (by omega)

/-- No lane address wraps (20_memory.md R41). -/
theorem laneAddr_lt (a : Word) (k : Fin 4) : laneAddr a k < 2 ^ 32 := by
  have h := wordBase_eq a
  have ha := a.isLt
  simp only [laneAddr]
  omega

/-- The address itself is the address of one of its word's lanes. -/
theorem exists_laneAddr (a : Word) : ∃ k, laneAddr a k = a.toNat := by
  refine ⟨⟨a.toNat % 4, by omega⟩, ?_⟩
  have h := wordBase_eq a
  have : a.toNat % 4 ≤ a.toNat := Nat.mod_le _ _
  simp only [laneAddr]
  omega

theorem inWindow_iff (w : Window) (a : Word) (k : Fin 4) :
    inWindow w a k = true ↔ w.start.toNat ≤ laneAddr a k ∧ laneAddr a k ≤ w.stop.toNat := by
  simp [inWindow]

/-- Different in-window lanes have different offsets. -/
theorem laneOffset_injective {w : Window} {a : Word} {j k : Fin 4} (hj : inWindow w a j = true)
    (hk : inWindow w a k = true) (h : laneOffset w a j = laneOffset w a k) : j = k := by
  rw [inWindow_iff] at hj hk
  simp only [laneOffset] at h
  exact laneAddr_injective a (by omega)

theorem laneOffset_lt {w : Window} {a : Word} {k : Fin 4} (hk : inWindow w a k = true) :
    laneOffset w a k < windowSize w := by
  rw [inWindow_iff] at hk
  simp only [laneOffset, windowSize]
  omega

/-- The lanes of a mask: `s` to `s + n - 1` are 0xFF, the others 0x00 (30_encoding.md R60). -/
theorem lane_maskOfLanes (o : LaneOrder) (s n : Nat) (k : Fin 4) :
    lane o (maskOfLanes o s n) k = if s ≤ k.val ∧ k.val < s + n then 0xFF#8 else 0x00#8 := by
  have hf := lane_fill o (fun k => decide (s ≤ k.val ∧ k.val < s + n)) (fun _ => 0xFF#8) lanes lanes_nodup 0#32 k
  have hz : lane o 0#32 k = 0#8 := by simp [lane]
  simp only [decide_eq_true_eq] at hf
  rw [maskOfLanes, hf]
  simp [mem_lanes, hz]

/-- An access fits in its aligned word exactly when `s + n <= 4` (30_encoding.md R60, R65). -/
theorem fitsWord_iff (a : Word) (w : Width) : fitsWord a w = true ↔ a.toNat % 4 + widthBytes w ≤ 4 :=
  decide_eq_true_iff

end Sys2Proof.Machine
end

