-- ==== Sys2Proof/Laws/Memory.lean ====
section
/-! SUPPORT. The byte stores: reading after writing, the canonical form every operation keeps, and what the store
accesses do byte by byte. -/

namespace Sys2Proof.Machine

theorem memRead_of_lt {m : Memory} {o : Nat} (h : ∀ c ∈ m, o < c.1) : memRead m o = 0#8 := by
  induction m with
  | nil => rfl
  | cons c m ih =>
    have hc : o < c.1 := h c (by simp)
    rw [memRead, if_neg (by omega)]
    exact ih fun c hc => h c (by simp [hc])

theorem memoryWf_cons (c : Host.Cell) (m : Memory) :
    memoryWf (c :: m) = true ↔ c.2 ≠ 0 ∧ (∀ e ∈ m, c.1 < e.1) ∧ memoryWf m = true := by
  simp [memoryWf, and_assoc]

/-- A byte written reads back, on a memory in canonical form. -/
theorem memRead_memWrite_same (m : Memory) (o : Nat) (b : Byte) (h : memoryWf m = true) :
    memRead (memWrite m o b) o = b := by
  induction m with
  | nil => by_cases hb : b = 0#8 <;> simp [memWrite, memRead, hb]
  | cons c m ih =>
    obtain ⟨-, hlt, hm⟩ := (memoryWf_cons c m).1 h
    have habove : c.1 = o ∨ o < c.1 → memRead m o = 0#8 := fun hc =>
      memRead_of_lt fun e he => by have := hlt e he; omega
    rw [memWrite]
    by_cases h1 : o < c.1
    · by_cases hb : b = 0#8
      · simp [h1, hb, memRead, show ¬ c.1 = o by omega, habove (Or.inr h1)]
      · simp [h1, hb, memRead]
    · by_cases h2 : c.1 = o
      · by_cases hb : b = 0#8
        · simp [h2, hb, habove (Or.inl h2)]
        · simp [h2, hb, memRead]
      · simp [h1, h2, memRead, ih hm]

/-- A write leaves every other byte alone. -/
theorem memRead_memWrite_other (m : Memory) {o p : Nat} (b : Byte) (h : p ≠ o) :
    memRead (memWrite m o b) p = memRead m p := by
  induction m with
  | nil => by_cases hb : b = 0#8 <;> simp [memWrite, memRead, hb, h.symm]
  | cons c m ih =>
    rw [memWrite]
    by_cases h1 : o < c.1
    · by_cases hb : b = 0#8 <;> simp [h1, hb, memRead, h.symm]
    · by_cases h2 : c.1 = o
      · by_cases hb : b = 0#8 <;> simp [h2, hb, memRead, h.symm]
      · rw [if_neg h1, if_neg h2, memRead, memRead, ih]

theorem memWrite_keys {m : Memory} {o : Nat} {b : Byte} {e : Host.Cell} (h : e ∈ memWrite m o b) :
    e.1 = o ∨ e ∈ m := by
  induction m with
  | nil => by_cases hb : b = 0#8 <;> simp_all [memWrite]
  | cons c m ih =>
    rw [memWrite] at h
    split at h
    · split at h
      · exact .inr h
      · rcases List.mem_cons.1 h with rfl | h
        · exact .inl rfl
        · exact .inr h
    · split at h
      · split at h
        · exact .inr (List.mem_cons_of_mem _ h)
        · rcases List.mem_cons.1 h with rfl | h
          · exact .inl rfl
          · exact .inr (List.mem_cons_of_mem _ h)
      · rcases List.mem_cons.1 h with rfl | h
        · exact .inr (by simp)
        · rcases ih h with h | h
          · exact .inl h
          · exact .inr (List.mem_cons_of_mem _ h)

/-- A write keeps the canonical form. -/
theorem memWrite_wf (m : Memory) (o : Nat) (b : Byte) (h : memoryWf m = true) : memoryWf (memWrite m o b) = true := by
  induction m with
  | nil => by_cases hb : b = 0#8 <;> simp [memWrite, memoryWf, hb]
  | cons c m ih =>
    obtain ⟨hc, hlt, hm⟩ := (memoryWf_cons c m).1 h
    rw [memWrite]
    split
    · split
      · exact h
      · rename_i h1 hb
        refine (memoryWf_cons _ _).2 ⟨hb, ?_, h⟩
        intro e he
        rcases List.mem_cons.1 he with rfl | he
        · exact h1
        · exact Nat.lt_trans h1 (hlt e he)
    · split
      · rename_i h1 h2
        split
        · exact hm
        · rename_i hb
          refine (memoryWf_cons _ _).2 ⟨hb, ?_, hm⟩
          intro e he
          have := hlt e he
          simp only
          omega
      · rename_i h1 h2
        refine (memoryWf_cons _ _).2 ⟨hc, ?_, ih hm⟩
        intro e he
        rcases memWrite_keys he with he | he
        · omega
        · exact hlt e he

theorem memoryWithin_iff (n : Nat) (m : Memory) : memoryWithin n m = true ↔ ∀ c ∈ m, c.1 < n := by
  simp [memoryWithin]

/-- A write inside the store keeps the store's length. -/
theorem memWrite_within (n : Nat) (m : Memory) (o : Nat) (b : Byte) (ho : o < n) (h : memoryWithin n m = true) :
    memoryWithin n (memWrite m o b) = true := by
  rw [memoryWithin_iff] at *
  intro c hc
  rcases memWrite_keys hc with hc | hc
  · omega
  · exact h c hc

/-- Memories in canonical form that read the same everywhere are equal. -/
theorem memory_ext {m n : Memory} (hm : memoryWf m = true) (hn : memoryWf n = true)
    (h : ∀ o, memRead m o = memRead n o) : m = n := by
  induction m generalizing n with
  | nil =>
    cases n with
    | nil => rfl
    | cons d n =>
      obtain ⟨hd, -, -⟩ := (memoryWf_cons d n).1 hn
      exact absurd (by simpa [memRead] using (h d.1).symm) hd
  | cons c m ih =>
    obtain ⟨hc, hcl, hm'⟩ := (memoryWf_cons c m).1 hm
    cases n with
    | nil => exact absurd (by simpa [memRead] using h c.1) hc
    | cons d n =>
      obtain ⟨hd, hdl, hn'⟩ := (memoryWf_cons d n).1 hn
      have hkey : c.1 = d.1 := by
        rcases Nat.lt_trichotomy c.1 d.1 with hlt | heq | hlt
        · have h0 : memRead (d :: n) c.1 = 0#8 := memRead_of_lt fun e he => by
            rcases List.mem_cons.1 he with rfl | he
            · exact hlt
            · exact Nat.lt_trans hlt (hdl e he)
          exact absurd ((by simp [memRead] : c.2 = memRead (c :: m) c.1).trans ((h c.1).trans h0)) hc
        · exact heq
        · have h0 : memRead (c :: m) d.1 = 0#8 := memRead_of_lt fun e he => by
            rcases List.mem_cons.1 he with rfl | he
            · exact hlt
            · exact Nat.lt_trans hlt (hcl e he)
          exact absurd ((by simp [memRead] : d.2 = memRead (d :: n) d.1).trans ((h d.1).symm.trans h0)) hd
      have hval : c.2 = d.2 := by simpa [memRead, hkey] using h c.1
      have hcd : c = d := Prod.ext hkey hval
      subst hcd
      congr 1
      refine ih hm' hn' fun o => ?_
      by_cases ho : c.1 = o
      · rw [memRead_of_lt fun e he => by have := hcl e he; omega,
          memRead_of_lt fun e he => by have := hdl e he; omega]
      · simpa [memRead, ho] using h o

theorem foldWrite_wf (n : Nat) (cells : List Host.Cell) (m : Memory) (h : memoryWf m = true) :
    memoryWf (cells.foldl (fun m c => if c.1 < n then memWrite m c.1 c.2 else m) m) = true := by
  induction cells generalizing m with
  | nil => exact h
  | cons c cells ih =>
    rw [List.foldl_cons]
    split
    · exact ih _ (memWrite_wf m c.1 c.2 h)
    · exact ih _ h

theorem foldWrite_within (n : Nat) (cells : List Host.Cell) (m : Memory) (h : memoryWithin n m = true) :
    memoryWithin n (cells.foldl (fun m c => if c.1 < n then memWrite m c.1 c.2 else m) m) = true := by
  induction cells generalizing m with
  | nil => exact h
  | cons c cells ih =>
    rw [List.foldl_cons]
    split
    · rename_i hc
      exact ih _ (memWrite_within n m c.1 c.2 hc h)
    · exact ih _ h

/-- A store made from any list of pairs is in canonical form. -/
theorem memOfCells_wf (n : Nat) (cells : List Host.Cell) : memoryWf (memOfCells n cells) = true :=
  foldWrite_wf n cells [] rfl

/-- A store made from any list of pairs stays within its length. -/
theorem memOfCells_within (n : Nat) (cells : List Host.Cell) : memoryWithin n (memOfCells n cells) = true :=
  foldWrite_within n cells [] rfl

theorem memRead_foldWrite (n : Nat) (cells : List Host.Cell) (m : Memory) (hc : memoryWf cells = true)
    (hn : memoryWithin n cells = true) (hm : memoryWf m = true) (o : Nat) :
    memRead (cells.foldl (fun m c => if c.1 < n then memWrite m c.1 c.2 else m) m) o
      = if ∃ c ∈ cells, c.1 = o then memRead cells o else memRead m o := by
  induction cells generalizing m with
  | nil => simp
  | cons c cells ih =>
    obtain ⟨-, hlt, hc'⟩ := (memoryWf_cons c cells).1 hc
    rw [memoryWithin_iff] at hn
    have hcn : c.1 < n := hn c (by simp)
    rw [List.foldl_cons, if_pos hcn,
      ih _ hc' ((memoryWithin_iff n cells).2 fun e he => hn e (by simp [he])) (memWrite_wf m c.1 c.2 hm)]
    by_cases ho : c.1 = o
    · have hno : ¬ ∃ e ∈ cells, e.1 = o := by
        rintro ⟨e, he, rfl⟩
        have := hlt e he
        omega
      subst ho
      rw [if_neg hno, if_pos ⟨c, by simp, rfl⟩, memRead_memWrite_same m c.1 c.2 hm]
      simp [memRead]
    · have hiff : (∃ e ∈ c :: cells, e.1 = o) ↔ ∃ e ∈ cells, e.1 = o := by
        simp [ho]
      rw [if_congr hiff rfl rfl]
      by_cases hex : ∃ e ∈ cells, e.1 = o
      · simp [hex, memRead, ho]
      · rw [if_neg hex, if_neg hex, memRead_memWrite_other m c.2 (Ne.symm ho)]

/-- Loading what a store in canonical form holds gives that store back. -/
theorem memOfCells_self (n : Nat) (m : Memory) (h : memoryWf m = true) (hn : memoryWithin n m = true) :
    memOfCells n m = m := by
  refine memory_ext (memOfCells_wf n m) h fun o => ?_
  rw [memOfCells, memRead_foldWrite n m [] h hn rfl]
  by_cases hex : ∃ c ∈ m, c.1 = o
  · rw [if_pos hex]
  · rw [if_neg hex]
    clear hn h
    induction m with
    | nil => rfl
    | cons c m ih =>
      have hc : ¬ c.1 = o := fun e => hex ⟨c, by simp, e⟩
      rw [show memRead (c :: m) o = memRead m o by rw [memRead, if_neg hc]]
      exact ih fun ⟨e, he, heo⟩ => hex ⟨e, by simp [he], heo⟩

/-- `StoreRead`, lane by lane (44_backing_store.md R92). -/
theorem lane_storeRead (c : Config) (w : Window) (m : Memory) (a : Word) (k : Fin 4) :
    lane c.laneOrder (storeRead c w m a) k
      = if inWindow w a k then memRead m (laneOffset w a k) else lane c.laneOrder c.openBus k := by
  rw [storeRead, lane_fill c.laneOrder _ _ lanes lanes_nodup]
  simp [mem_lanes]

/-- The stored byte of one lane in `StoreWrite` (44_backing_store.md R93). -/
theorem memRead_foldStore (p : Fin 4 → Bool) (off : Fin 4 → Nat) (d mk : Fin 4 → Byte)
    (hinj : ∀ j k, p j = true → p k = true → off j = off k → j = k) (ks : List (Fin 4)) (hk : ks.Nodup)
    (m : Memory) (hm : memoryWf m = true) (o : Nat) :
    memRead (ks.foldl (fun m k => if p k then memWrite m (off k) (mergeByte (memRead m (off k)) (d k) (mk k)) else m) m) o
        = (match ks.find? (fun k => p k && decide (off k = o)) with
          | some k => mergeByte (memRead m o) (d k) (mk k)
          | none => memRead m o)
      ∧ memoryWf (ks.foldl
          (fun m k => if p k then memWrite m (off k) (mergeByte (memRead m (off k)) (d k) (mk k)) else m) m) = true := by
  induction ks generalizing m with
  | nil => exact ⟨rfl, hm⟩
  | cons k ks ih =>
    obtain ⟨hkn, hk⟩ := List.nodup_cons.1 hk
    rw [List.foldl_cons]
    by_cases hp : p k = true
    · rw [if_pos hp]
      have hw := memWrite_wf m (off k) (mergeByte (memRead m (off k)) (d k) (mk k)) hm
      obtain ⟨hr, hwf⟩ := ih hk _ hw
      refine ⟨?_, hwf⟩
      rw [hr]
      by_cases ho : off k = o
      · subst ho
        have hnone : ks.find? (fun j => p j && decide (off j = off k)) = none := by
          rw [List.find?_eq_none]
          intro j hj hpj
          simp only [Bool.and_eq_true, decide_eq_true_eq] at hpj
          exact hkn (hinj j k hpj.1 hp hpj.2 ▸ hj)
        simp [hnone, hp, memRead_memWrite_same m _ _ hm]
      · have ho' : o ≠ off k := Ne.symm ho
        simp [ho, hp, memRead_memWrite_other m _ ho']
    · rw [if_neg hp]
      obtain ⟨hr, hwf⟩ := ih hk m hm
      refine ⟨?_, hwf⟩
      rw [hr]
      simp [hp]

/-- The lane of a transaction that stores to offset `o`, if there is one (44_backing_store.md R93). -/
def storedLane (o : LaneOrder) (w : Window) (a mask : Word) (off : Nat) : Option (Fin 4) :=
  lanes.find? fun k => (activeLane o mask k && inWindow w a k) && decide (laneOffset w a k = off)

/-- `StoreWrite`, byte by byte: the byte of an active in-window lane is merged, every other byte stays
(44_backing_store.md R93). -/
theorem memRead_storeWrite (o : LaneOrder) (w : Window) (m : Memory) (a d mask : Word) (hm : memoryWf m = true)
    (off : Nat) :
    memRead (storeWrite o w m a d mask) off
      = match storedLane o w a mask off with
        | some k => mergeByte (memRead m off) (lane o d k) (lane o mask k)
        | none => memRead m off :=
  (memRead_foldStore (fun k => activeLane o mask k && inWindow w a k) (laneOffset w a) (lane o d) (lane o mask)
    (fun j k hj hk h => by
      simp only [Bool.and_eq_true] at hj hk
      exact laneOffset_injective hj.2 hk.2 h) lanes lanes_nodup m hm off).1

theorem storeWrite_wf (o : LaneOrder) (w : Window) (m : Memory) (a d mask : Word) (hm : memoryWf m = true) :
    memoryWf (storeWrite o w m a d mask) = true :=
  (memRead_foldStore (fun k => activeLane o mask k && inWindow w a k) (laneOffset w a) (lane o d) (lane o mask)
    (fun j k hj hk h => by
      simp only [Bool.and_eq_true] at hj hk
      exact laneOffset_injective hj.2 hk.2 h) lanes lanes_nodup m hm 0).2

theorem storeWrite_within (o : LaneOrder) (w : Window) (m : Memory) (a d mask : Word)
    (hm : memoryWithin (windowSize w) m = true) : memoryWithin (windowSize w) (storeWrite o w m a d mask) = true := by
  have key : ∀ (ks : List (Fin 4)) (m : Memory), memoryWithin (windowSize w) m = true →
      memoryWithin (windowSize w) (ks.foldl
        (fun m k =>
          if activeLane o mask k && inWindow w a k then
            memWrite m (laneOffset w a k)
              (mergeByte (memRead m (laneOffset w a k)) (lane o d k) (lane o mask k))
          else m) m) = true := by
    intro ks
    induction ks with
    | nil => exact fun m h => h
    | cons k ks ih =>
      intro m h
      rw [List.foldl_cons]
      by_cases hp : (activeLane o mask k && inWindow w a k) = true
      · rw [if_pos hp]
        simp only [Bool.and_eq_true] at hp
        exact ih _ (memWrite_within _ m _ _ (laneOffset_lt hp.2) h)
      · rw [if_neg hp]
        exact ih _ h
  exact key lanes m hm

end Sys2Proof.Machine
end

