-- ==== Sys2Proof/Laws/State.lean ====
section
/-! SUPPORT. One lemma per field for every update of the state, each true by rfl. -/

namespace Sys2Proof.Machine

@[simp] theorem setResult_cfg (s : State) (v : Option Word) : (s.setResult v).cfg = s.cfg := rfl
@[simp] theorem setResult_ovr0 (s : State) (v : Option Word) : (s.setResult v).ovr0 = s.ovr0 := rfl
@[simp] theorem setResult_ovr1 (s : State) (v : Option Word) : (s.setResult v).ovr1 = s.ovr1 := rfl
@[simp] theorem setResult_active (s : State) (v : Option Word) : (s.setResult v).active = s.active := rfl
@[simp] theorem setResult_enabled (s : State) (v : Option Word) : (s.setResult v).enabled = s.enabled := rfl
@[simp] theorem setResult_nextPulse (s : State) (v : Option Word) : (s.setResult v).nextPulse = s.nextPulse := rfl
@[simp] theorem setResult_now (s : State) (v : Option Word) : (s.setResult v).now = s.now := rfl
@[simp] theorem setResult_ram (s : State) (v : Option Word) : (s.setResult v).ram = s.ram := rfl
@[simp] theorem setResult_rom (s : State) (v : Option Word) : (s.setResult v).rom = s.rom := rfl
@[simp] theorem setResult_ramdisk (s : State) (v : Option Word) : (s.setResult v).ramdisk = s.ramdisk := rfl
@[simp] theorem setResult_irq (s : State) (v : Option Word) : (s.setResult v).irq = s.irq := rfl
@[simp] theorem setResult_events (s : State) (v : Option Word) : (s.setResult v).events = s.events := rfl
@[simp] theorem setResult_refused (s : State) (v : Option Word) : (s.setResult v).refused = s.refused := rfl
@[simp] theorem setResult_blob (s : State) (v : Option Word) : (s.setResult v).blob = s.blob := rfl
@[simp] theorem setResult_reports (s : State) (v : Option Word) : (s.setResult v).reports = s.reports := rfl
@[simp] theorem setResult_result (s : State) (v : Option Word) : (s.setResult v).result = v := rfl
@[simp] theorem setResult_replies (s : State) (v : Option Word) : (s.setResult v).replies = s.replies := rfl
@[simp] theorem setResult_bridgeCalls (s : State) (v : Option Word) : (s.setResult v).bridgeCalls = s.bridgeCalls := rfl
@[simp] theorem setResult_stream (s : State) (v : Option Word) : (s.setResult v).stream = s.stream := rfl

@[simp] theorem setRam_cfg (s : State) (m : Memory) : (s.setRam m).cfg = s.cfg := rfl
@[simp] theorem setRam_ovr0 (s : State) (m : Memory) : (s.setRam m).ovr0 = s.ovr0 := rfl
@[simp] theorem setRam_ovr1 (s : State) (m : Memory) : (s.setRam m).ovr1 = s.ovr1 := rfl
@[simp] theorem setRam_active (s : State) (m : Memory) : (s.setRam m).active = s.active := rfl
@[simp] theorem setRam_enabled (s : State) (m : Memory) : (s.setRam m).enabled = s.enabled := rfl
@[simp] theorem setRam_nextPulse (s : State) (m : Memory) : (s.setRam m).nextPulse = s.nextPulse := rfl
@[simp] theorem setRam_now (s : State) (m : Memory) : (s.setRam m).now = s.now := rfl
@[simp] theorem setRam_ram (s : State) (m : Memory) : (s.setRam m).ram = m := rfl
@[simp] theorem setRam_rom (s : State) (m : Memory) : (s.setRam m).rom = s.rom := rfl
@[simp] theorem setRam_ramdisk (s : State) (m : Memory) : (s.setRam m).ramdisk = s.ramdisk := rfl
@[simp] theorem setRam_irq (s : State) (m : Memory) : (s.setRam m).irq = s.irq := rfl
@[simp] theorem setRam_events (s : State) (m : Memory) : (s.setRam m).events = s.events := rfl
@[simp] theorem setRam_refused (s : State) (m : Memory) : (s.setRam m).refused = s.refused := rfl
@[simp] theorem setRam_blob (s : State) (m : Memory) : (s.setRam m).blob = s.blob := rfl
@[simp] theorem setRam_reports (s : State) (m : Memory) : (s.setRam m).reports = s.reports := rfl
@[simp] theorem setRam_result (s : State) (m : Memory) : (s.setRam m).result = s.result := rfl
@[simp] theorem setRam_replies (s : State) (m : Memory) : (s.setRam m).replies = s.replies := rfl
@[simp] theorem setRam_bridgeCalls (s : State) (m : Memory) : (s.setRam m).bridgeCalls = s.bridgeCalls := rfl
@[simp] theorem setRam_stream (s : State) (m : Memory) : (s.setRam m).stream = s.stream := rfl

@[simp] theorem setRamdisk_cfg (s : State) (m : Memory) : (s.setRamdisk m).cfg = s.cfg := rfl
@[simp] theorem setRamdisk_ovr0 (s : State) (m : Memory) : (s.setRamdisk m).ovr0 = s.ovr0 := rfl
@[simp] theorem setRamdisk_ovr1 (s : State) (m : Memory) : (s.setRamdisk m).ovr1 = s.ovr1 := rfl
@[simp] theorem setRamdisk_active (s : State) (m : Memory) : (s.setRamdisk m).active = s.active := rfl
@[simp] theorem setRamdisk_enabled (s : State) (m : Memory) : (s.setRamdisk m).enabled = s.enabled := rfl
@[simp] theorem setRamdisk_nextPulse (s : State) (m : Memory) : (s.setRamdisk m).nextPulse = s.nextPulse := rfl
@[simp] theorem setRamdisk_now (s : State) (m : Memory) : (s.setRamdisk m).now = s.now := rfl
@[simp] theorem setRamdisk_ram (s : State) (m : Memory) : (s.setRamdisk m).ram = s.ram := rfl
@[simp] theorem setRamdisk_rom (s : State) (m : Memory) : (s.setRamdisk m).rom = s.rom := rfl
@[simp] theorem setRamdisk_ramdisk (s : State) (m : Memory) : (s.setRamdisk m).ramdisk = m := rfl
@[simp] theorem setRamdisk_irq (s : State) (m : Memory) : (s.setRamdisk m).irq = s.irq := rfl
@[simp] theorem setRamdisk_events (s : State) (m : Memory) : (s.setRamdisk m).events = s.events := rfl
@[simp] theorem setRamdisk_refused (s : State) (m : Memory) : (s.setRamdisk m).refused = s.refused := rfl
@[simp] theorem setRamdisk_blob (s : State) (m : Memory) : (s.setRamdisk m).blob = s.blob := rfl
@[simp] theorem setRamdisk_reports (s : State) (m : Memory) : (s.setRamdisk m).reports = s.reports := rfl
@[simp] theorem setRamdisk_result (s : State) (m : Memory) : (s.setRamdisk m).result = s.result := rfl
@[simp] theorem setRamdisk_replies (s : State) (m : Memory) : (s.setRamdisk m).replies = s.replies := rfl
@[simp] theorem setRamdisk_bridgeCalls (s : State) (m : Memory) : (s.setRamdisk m).bridgeCalls = s.bridgeCalls := rfl
@[simp] theorem setRamdisk_stream (s : State) (m : Memory) : (s.setRamdisk m).stream = s.stream := rfl

@[simp] theorem setReplies_cfg (s : State) (r : Replies) : (s.setReplies r).cfg = s.cfg := rfl
@[simp] theorem setReplies_ovr0 (s : State) (r : Replies) : (s.setReplies r).ovr0 = s.ovr0 := rfl
@[simp] theorem setReplies_ovr1 (s : State) (r : Replies) : (s.setReplies r).ovr1 = s.ovr1 := rfl
@[simp] theorem setReplies_active (s : State) (r : Replies) : (s.setReplies r).active = s.active := rfl
@[simp] theorem setReplies_enabled (s : State) (r : Replies) : (s.setReplies r).enabled = s.enabled := rfl
@[simp] theorem setReplies_nextPulse (s : State) (r : Replies) : (s.setReplies r).nextPulse = s.nextPulse := rfl
@[simp] theorem setReplies_now (s : State) (r : Replies) : (s.setReplies r).now = s.now := rfl
@[simp] theorem setReplies_ram (s : State) (r : Replies) : (s.setReplies r).ram = s.ram := rfl
@[simp] theorem setReplies_rom (s : State) (r : Replies) : (s.setReplies r).rom = s.rom := rfl
@[simp] theorem setReplies_ramdisk (s : State) (r : Replies) : (s.setReplies r).ramdisk = s.ramdisk := rfl
@[simp] theorem setReplies_irq (s : State) (r : Replies) : (s.setReplies r).irq = s.irq := rfl
@[simp] theorem setReplies_events (s : State) (r : Replies) : (s.setReplies r).events = s.events := rfl
@[simp] theorem setReplies_refused (s : State) (r : Replies) : (s.setReplies r).refused = s.refused := rfl
@[simp] theorem setReplies_blob (s : State) (r : Replies) : (s.setReplies r).blob = s.blob := rfl
@[simp] theorem setReplies_reports (s : State) (r : Replies) : (s.setReplies r).reports = s.reports := rfl
@[simp] theorem setReplies_result (s : State) (r : Replies) : (s.setReplies r).result = s.result := rfl
@[simp] theorem setReplies_replies (s : State) (r : Replies) : (s.setReplies r).replies = r := rfl
@[simp] theorem setReplies_bridgeCalls (s : State) (r : Replies) : (s.setReplies r).bridgeCalls = s.bridgeCalls := rfl
@[simp] theorem setReplies_stream (s : State) (r : Replies) : (s.setReplies r).stream = s.stream := rfl

@[simp] theorem setStream_cfg (s : State) (l : List AgentStep) : (s.setStream l).cfg = s.cfg := rfl
@[simp] theorem setStream_ovr0 (s : State) (l : List AgentStep) : (s.setStream l).ovr0 = s.ovr0 := rfl
@[simp] theorem setStream_ovr1 (s : State) (l : List AgentStep) : (s.setStream l).ovr1 = s.ovr1 := rfl
@[simp] theorem setStream_active (s : State) (l : List AgentStep) : (s.setStream l).active = s.active := rfl
@[simp] theorem setStream_enabled (s : State) (l : List AgentStep) : (s.setStream l).enabled = s.enabled := rfl
@[simp] theorem setStream_nextPulse (s : State) (l : List AgentStep) : (s.setStream l).nextPulse = s.nextPulse := rfl
@[simp] theorem setStream_now (s : State) (l : List AgentStep) : (s.setStream l).now = s.now := rfl
@[simp] theorem setStream_ram (s : State) (l : List AgentStep) : (s.setStream l).ram = s.ram := rfl
@[simp] theorem setStream_rom (s : State) (l : List AgentStep) : (s.setStream l).rom = s.rom := rfl
@[simp] theorem setStream_ramdisk (s : State) (l : List AgentStep) : (s.setStream l).ramdisk = s.ramdisk := rfl
@[simp] theorem setStream_irq (s : State) (l : List AgentStep) : (s.setStream l).irq = s.irq := rfl
@[simp] theorem setStream_events (s : State) (l : List AgentStep) : (s.setStream l).events = s.events := rfl
@[simp] theorem setStream_refused (s : State) (l : List AgentStep) : (s.setStream l).refused = s.refused := rfl
@[simp] theorem setStream_blob (s : State) (l : List AgentStep) : (s.setStream l).blob = s.blob := rfl
@[simp] theorem setStream_reports (s : State) (l : List AgentStep) : (s.setStream l).reports = s.reports := rfl
@[simp] theorem setStream_result (s : State) (l : List AgentStep) : (s.setStream l).result = s.result := rfl
@[simp] theorem setStream_replies (s : State) (l : List AgentStep) : (s.setStream l).replies = s.replies := rfl
@[simp] theorem setStream_bridgeCalls (s : State) (l : List AgentStep) : (s.setStream l).bridgeCalls = s.bridgeCalls := rfl
@[simp] theorem setStream_stream (s : State) (l : List AgentStep) : (s.setStream l).stream = l := rfl

@[simp] theorem setNow_cfg (s : State) (t : Nat) : (s.setNow t).cfg = s.cfg := rfl
@[simp] theorem setNow_ovr0 (s : State) (t : Nat) : (s.setNow t).ovr0 = s.ovr0 := rfl
@[simp] theorem setNow_ovr1 (s : State) (t : Nat) : (s.setNow t).ovr1 = s.ovr1 := rfl
@[simp] theorem setNow_active (s : State) (t : Nat) : (s.setNow t).active = s.active := rfl
@[simp] theorem setNow_enabled (s : State) (t : Nat) : (s.setNow t).enabled = s.enabled := rfl
@[simp] theorem setNow_nextPulse (s : State) (t : Nat) : (s.setNow t).nextPulse = s.nextPulse := rfl
@[simp] theorem setNow_now (s : State) (t : Nat) : (s.setNow t).now = t := rfl
@[simp] theorem setNow_ram (s : State) (t : Nat) : (s.setNow t).ram = s.ram := rfl
@[simp] theorem setNow_rom (s : State) (t : Nat) : (s.setNow t).rom = s.rom := rfl
@[simp] theorem setNow_ramdisk (s : State) (t : Nat) : (s.setNow t).ramdisk = s.ramdisk := rfl
@[simp] theorem setNow_irq (s : State) (t : Nat) : (s.setNow t).irq = s.irq := rfl
@[simp] theorem setNow_events (s : State) (t : Nat) : (s.setNow t).events = s.events := rfl
@[simp] theorem setNow_refused (s : State) (t : Nat) : (s.setNow t).refused = s.refused := rfl
@[simp] theorem setNow_blob (s : State) (t : Nat) : (s.setNow t).blob = s.blob := rfl
@[simp] theorem setNow_reports (s : State) (t : Nat) : (s.setNow t).reports = s.reports := rfl
@[simp] theorem setNow_result (s : State) (t : Nat) : (s.setNow t).result = s.result := rfl
@[simp] theorem setNow_replies (s : State) (t : Nat) : (s.setNow t).replies = s.replies := rfl
@[simp] theorem setNow_bridgeCalls (s : State) (t : Nat) : (s.setNow t).bridgeCalls = s.bridgeCalls := rfl
@[simp] theorem setNow_stream (s : State) (t : Nat) : (s.setNow t).stream = s.stream := rfl

@[simp] theorem setNextPulse_cfg (s : State) (p : Option Nat) : (s.setNextPulse p).cfg = s.cfg := rfl
@[simp] theorem setNextPulse_ovr0 (s : State) (p : Option Nat) : (s.setNextPulse p).ovr0 = s.ovr0 := rfl
@[simp] theorem setNextPulse_ovr1 (s : State) (p : Option Nat) : (s.setNextPulse p).ovr1 = s.ovr1 := rfl
@[simp] theorem setNextPulse_active (s : State) (p : Option Nat) : (s.setNextPulse p).active = s.active := rfl
@[simp] theorem setNextPulse_enabled (s : State) (p : Option Nat) : (s.setNextPulse p).enabled = s.enabled := rfl
@[simp] theorem setNextPulse_nextPulse (s : State) (p : Option Nat) : (s.setNextPulse p).nextPulse = p := rfl
@[simp] theorem setNextPulse_now (s : State) (p : Option Nat) : (s.setNextPulse p).now = s.now := rfl
@[simp] theorem setNextPulse_ram (s : State) (p : Option Nat) : (s.setNextPulse p).ram = s.ram := rfl
@[simp] theorem setNextPulse_rom (s : State) (p : Option Nat) : (s.setNextPulse p).rom = s.rom := rfl
@[simp] theorem setNextPulse_ramdisk (s : State) (p : Option Nat) : (s.setNextPulse p).ramdisk = s.ramdisk := rfl
@[simp] theorem setNextPulse_irq (s : State) (p : Option Nat) : (s.setNextPulse p).irq = s.irq := rfl
@[simp] theorem setNextPulse_events (s : State) (p : Option Nat) : (s.setNextPulse p).events = s.events := rfl
@[simp] theorem setNextPulse_refused (s : State) (p : Option Nat) : (s.setNextPulse p).refused = s.refused := rfl
@[simp] theorem setNextPulse_blob (s : State) (p : Option Nat) : (s.setNextPulse p).blob = s.blob := rfl
@[simp] theorem setNextPulse_reports (s : State) (p : Option Nat) : (s.setNextPulse p).reports = s.reports := rfl
@[simp] theorem setNextPulse_result (s : State) (p : Option Nat) : (s.setNextPulse p).result = s.result := rfl
@[simp] theorem setNextPulse_replies (s : State) (p : Option Nat) : (s.setNextPulse p).replies = s.replies := rfl
@[simp] theorem setNextPulse_bridgeCalls (s : State) (p : Option Nat) : (s.setNextPulse p).bridgeCalls = s.bridgeCalls := rfl
@[simp] theorem setNextPulse_stream (s : State) (p : Option Nat) : (s.setNextPulse p).stream = s.stream := rfl

@[simp] theorem setIrq_cfg (s : State) (l : List Nat) : (s.setIrq l).cfg = s.cfg := rfl
@[simp] theorem setIrq_ovr0 (s : State) (l : List Nat) : (s.setIrq l).ovr0 = s.ovr0 := rfl
@[simp] theorem setIrq_ovr1 (s : State) (l : List Nat) : (s.setIrq l).ovr1 = s.ovr1 := rfl
@[simp] theorem setIrq_active (s : State) (l : List Nat) : (s.setIrq l).active = s.active := rfl
@[simp] theorem setIrq_enabled (s : State) (l : List Nat) : (s.setIrq l).enabled = s.enabled := rfl
@[simp] theorem setIrq_nextPulse (s : State) (l : List Nat) : (s.setIrq l).nextPulse = s.nextPulse := rfl
@[simp] theorem setIrq_now (s : State) (l : List Nat) : (s.setIrq l).now = s.now := rfl
@[simp] theorem setIrq_ram (s : State) (l : List Nat) : (s.setIrq l).ram = s.ram := rfl
@[simp] theorem setIrq_rom (s : State) (l : List Nat) : (s.setIrq l).rom = s.rom := rfl
@[simp] theorem setIrq_ramdisk (s : State) (l : List Nat) : (s.setIrq l).ramdisk = s.ramdisk := rfl
@[simp] theorem setIrq_irq (s : State) (l : List Nat) : (s.setIrq l).irq = l := rfl
@[simp] theorem setIrq_events (s : State) (l : List Nat) : (s.setIrq l).events = s.events := rfl
@[simp] theorem setIrq_refused (s : State) (l : List Nat) : (s.setIrq l).refused = s.refused := rfl
@[simp] theorem setIrq_blob (s : State) (l : List Nat) : (s.setIrq l).blob = s.blob := rfl
@[simp] theorem setIrq_reports (s : State) (l : List Nat) : (s.setIrq l).reports = s.reports := rfl
@[simp] theorem setIrq_result (s : State) (l : List Nat) : (s.setIrq l).result = s.result := rfl
@[simp] theorem setIrq_replies (s : State) (l : List Nat) : (s.setIrq l).replies = s.replies := rfl
@[simp] theorem setIrq_bridgeCalls (s : State) (l : List Nat) : (s.setIrq l).bridgeCalls = s.bridgeCalls := rfl
@[simp] theorem setIrq_stream (s : State) (l : List Nat) : (s.setIrq l).stream = s.stream := rfl

@[simp] theorem emit_cfg (s : State) (e : Event) : (s.emit e).cfg = s.cfg := rfl
@[simp] theorem emit_ovr0 (s : State) (e : Event) : (s.emit e).ovr0 = s.ovr0 := rfl
@[simp] theorem emit_ovr1 (s : State) (e : Event) : (s.emit e).ovr1 = s.ovr1 := rfl
@[simp] theorem emit_active (s : State) (e : Event) : (s.emit e).active = s.active := rfl
@[simp] theorem emit_enabled (s : State) (e : Event) : (s.emit e).enabled = s.enabled := rfl
@[simp] theorem emit_nextPulse (s : State) (e : Event) : (s.emit e).nextPulse = s.nextPulse := rfl
@[simp] theorem emit_now (s : State) (e : Event) : (s.emit e).now = s.now := rfl
@[simp] theorem emit_ram (s : State) (e : Event) : (s.emit e).ram = s.ram := rfl
@[simp] theorem emit_rom (s : State) (e : Event) : (s.emit e).rom = s.rom := rfl
@[simp] theorem emit_ramdisk (s : State) (e : Event) : (s.emit e).ramdisk = s.ramdisk := rfl
@[simp] theorem emit_irq (s : State) (e : Event) : (s.emit e).irq = s.irq := rfl
@[simp] theorem emit_events (s : State) (e : Event) : (s.emit e).events = s.events ++ [e] := rfl
@[simp] theorem emit_refused (s : State) (e : Event) : (s.emit e).refused = s.refused := rfl
@[simp] theorem emit_blob (s : State) (e : Event) : (s.emit e).blob = s.blob := rfl
@[simp] theorem emit_reports (s : State) (e : Event) : (s.emit e).reports = s.reports := rfl
@[simp] theorem emit_result (s : State) (e : Event) : (s.emit e).result = s.result := rfl
@[simp] theorem emit_replies (s : State) (e : Event) : (s.emit e).replies = s.replies := rfl
@[simp] theorem emit_bridgeCalls (s : State) (e : Event) : (s.emit e).bridgeCalls = s.bridgeCalls := rfl
@[simp] theorem emit_stream (s : State) (e : Event) : (s.emit e).stream = s.stream := rfl

@[simp] theorem logCalls_cfg (s : State) (l : List BridgeCall) : (s.logCalls l).cfg = s.cfg := rfl
@[simp] theorem logCalls_ovr0 (s : State) (l : List BridgeCall) : (s.logCalls l).ovr0 = s.ovr0 := rfl
@[simp] theorem logCalls_ovr1 (s : State) (l : List BridgeCall) : (s.logCalls l).ovr1 = s.ovr1 := rfl
@[simp] theorem logCalls_active (s : State) (l : List BridgeCall) : (s.logCalls l).active = s.active := rfl
@[simp] theorem logCalls_enabled (s : State) (l : List BridgeCall) : (s.logCalls l).enabled = s.enabled := rfl
@[simp] theorem logCalls_nextPulse (s : State) (l : List BridgeCall) : (s.logCalls l).nextPulse = s.nextPulse := rfl
@[simp] theorem logCalls_now (s : State) (l : List BridgeCall) : (s.logCalls l).now = s.now := rfl
@[simp] theorem logCalls_ram (s : State) (l : List BridgeCall) : (s.logCalls l).ram = s.ram := rfl
@[simp] theorem logCalls_rom (s : State) (l : List BridgeCall) : (s.logCalls l).rom = s.rom := rfl
@[simp] theorem logCalls_ramdisk (s : State) (l : List BridgeCall) : (s.logCalls l).ramdisk = s.ramdisk := rfl
@[simp] theorem logCalls_irq (s : State) (l : List BridgeCall) : (s.logCalls l).irq = s.irq := rfl
@[simp] theorem logCalls_events (s : State) (l : List BridgeCall) : (s.logCalls l).events = s.events := rfl
@[simp] theorem logCalls_refused (s : State) (l : List BridgeCall) : (s.logCalls l).refused = s.refused := rfl
@[simp] theorem logCalls_blob (s : State) (l : List BridgeCall) : (s.logCalls l).blob = s.blob := rfl
@[simp] theorem logCalls_reports (s : State) (l : List BridgeCall) : (s.logCalls l).reports = s.reports := rfl
@[simp] theorem logCalls_result (s : State) (l : List BridgeCall) : (s.logCalls l).result = s.result := rfl
@[simp] theorem logCalls_replies (s : State) (l : List BridgeCall) : (s.logCalls l).replies = s.replies := rfl
@[simp] theorem logCalls_bridgeCalls (s : State) (l : List BridgeCall) : (s.logCalls l).bridgeCalls = s.bridgeCalls ++ l := rfl
@[simp] theorem logCalls_stream (s : State) (l : List BridgeCall) : (s.logCalls l).stream = s.stream := rfl

@[simp] theorem setBlob_cfg (s : State) (b : Option Blob) : (s.setBlob b).cfg = s.cfg := rfl
@[simp] theorem setBlob_ovr0 (s : State) (b : Option Blob) : (s.setBlob b).ovr0 = s.ovr0 := rfl
@[simp] theorem setBlob_ovr1 (s : State) (b : Option Blob) : (s.setBlob b).ovr1 = s.ovr1 := rfl
@[simp] theorem setBlob_active (s : State) (b : Option Blob) : (s.setBlob b).active = s.active := rfl
@[simp] theorem setBlob_enabled (s : State) (b : Option Blob) : (s.setBlob b).enabled = s.enabled := rfl
@[simp] theorem setBlob_nextPulse (s : State) (b : Option Blob) : (s.setBlob b).nextPulse = s.nextPulse := rfl
@[simp] theorem setBlob_now (s : State) (b : Option Blob) : (s.setBlob b).now = s.now := rfl
@[simp] theorem setBlob_ram (s : State) (b : Option Blob) : (s.setBlob b).ram = s.ram := rfl
@[simp] theorem setBlob_rom (s : State) (b : Option Blob) : (s.setBlob b).rom = s.rom := rfl
@[simp] theorem setBlob_ramdisk (s : State) (b : Option Blob) : (s.setBlob b).ramdisk = s.ramdisk := rfl
@[simp] theorem setBlob_irq (s : State) (b : Option Blob) : (s.setBlob b).irq = s.irq := rfl
@[simp] theorem setBlob_events (s : State) (b : Option Blob) : (s.setBlob b).events = s.events := rfl
@[simp] theorem setBlob_refused (s : State) (b : Option Blob) : (s.setBlob b).refused = s.refused := rfl
@[simp] theorem setBlob_blob (s : State) (b : Option Blob) : (s.setBlob b).blob = b := rfl
@[simp] theorem setBlob_reports (s : State) (b : Option Blob) : (s.setBlob b).reports = s.reports := rfl
@[simp] theorem setBlob_result (s : State) (b : Option Blob) : (s.setBlob b).result = s.result := rfl
@[simp] theorem setBlob_replies (s : State) (b : Option Blob) : (s.setBlob b).replies = s.replies := rfl
@[simp] theorem setBlob_bridgeCalls (s : State) (b : Option Blob) : (s.setBlob b).bridgeCalls = s.bridgeCalls := rfl
@[simp] theorem setBlob_stream (s : State) (b : Option Blob) : (s.setBlob b).stream = s.stream := rfl

@[simp] theorem report_cfg (s : State) (r : Report) : (s.report r).cfg = s.cfg := rfl
@[simp] theorem report_ovr0 (s : State) (r : Report) : (s.report r).ovr0 = s.ovr0 := rfl
@[simp] theorem report_ovr1 (s : State) (r : Report) : (s.report r).ovr1 = s.ovr1 := rfl
@[simp] theorem report_active (s : State) (r : Report) : (s.report r).active = s.active := rfl
@[simp] theorem report_enabled (s : State) (r : Report) : (s.report r).enabled = s.enabled := rfl
@[simp] theorem report_nextPulse (s : State) (r : Report) : (s.report r).nextPulse = s.nextPulse := rfl
@[simp] theorem report_now (s : State) (r : Report) : (s.report r).now = s.now := rfl
@[simp] theorem report_ram (s : State) (r : Report) : (s.report r).ram = s.ram := rfl
@[simp] theorem report_rom (s : State) (r : Report) : (s.report r).rom = s.rom := rfl
@[simp] theorem report_ramdisk (s : State) (r : Report) : (s.report r).ramdisk = s.ramdisk := rfl
@[simp] theorem report_irq (s : State) (r : Report) : (s.report r).irq = s.irq := rfl
@[simp] theorem report_events (s : State) (r : Report) : (s.report r).events = s.events := rfl
@[simp] theorem report_refused (s : State) (r : Report) : (s.report r).refused = s.refused := rfl
@[simp] theorem report_blob (s : State) (r : Report) : (s.report r).blob = s.blob := rfl
@[simp] theorem report_reports (s : State) (r : Report) : (s.report r).reports = s.reports ++ [r] := rfl
@[simp] theorem report_result (s : State) (r : Report) : (s.report r).result = s.result := rfl
@[simp] theorem report_replies (s : State) (r : Report) : (s.report r).replies = s.replies := rfl
@[simp] theorem report_bridgeCalls (s : State) (r : Report) : (s.report r).bridgeCalls = s.bridgeCalls := rfl
@[simp] theorem report_stream (s : State) (r : Report) : (s.report r).stream = s.stream := rfl

@[simp] theorem markRefused_cfg (s : State) : s.markRefused.cfg = s.cfg := rfl
@[simp] theorem markRefused_ovr0 (s : State) : s.markRefused.ovr0 = s.ovr0 := rfl
@[simp] theorem markRefused_ovr1 (s : State) : s.markRefused.ovr1 = s.ovr1 := rfl
@[simp] theorem markRefused_active (s : State) : s.markRefused.active = s.active := rfl
@[simp] theorem markRefused_enabled (s : State) : s.markRefused.enabled = s.enabled := rfl
@[simp] theorem markRefused_nextPulse (s : State) : s.markRefused.nextPulse = s.nextPulse := rfl
@[simp] theorem markRefused_now (s : State) : s.markRefused.now = s.now := rfl
@[simp] theorem markRefused_ram (s : State) : s.markRefused.ram = s.ram := rfl
@[simp] theorem markRefused_rom (s : State) : s.markRefused.rom = s.rom := rfl
@[simp] theorem markRefused_ramdisk (s : State) : s.markRefused.ramdisk = s.ramdisk := rfl
@[simp] theorem markRefused_irq (s : State) : s.markRefused.irq = s.irq := rfl
@[simp] theorem markRefused_events (s : State) : s.markRefused.events = s.events := rfl
@[simp] theorem markRefused_refused (s : State) : s.markRefused.refused = true := rfl
@[simp] theorem markRefused_blob (s : State) : s.markRefused.blob = s.blob := rfl
@[simp] theorem markRefused_reports (s : State) : s.markRefused.reports = s.reports := rfl
@[simp] theorem markRefused_result (s : State) : s.markRefused.result = s.result := rfl
@[simp] theorem markRefused_replies (s : State) : s.markRefused.replies = s.replies := rfl
@[simp] theorem markRefused_bridgeCalls (s : State) : s.markRefused.bridgeCalls = s.bridgeCalls := rfl
@[simp] theorem markRefused_stream (s : State) : s.markRefused.stream = s.stream := rfl

@[simp] theorem setSlot_cfg (s : State) (i : Nat) (v : Word) : (s.setSlot i v).cfg = s.cfg := rfl
@[simp] theorem setSlot_ovr0 (s : State) (i : Nat) (v : Word) : (s.setSlot i v).ovr0 = if i = 0 then v else s.ovr0 := rfl
@[simp] theorem setSlot_ovr1 (s : State) (i : Nat) (v : Word) : (s.setSlot i v).ovr1 = if i = 0 then s.ovr1 else v := rfl
@[simp] theorem setSlot_active (s : State) (i : Nat) (v : Word) : (s.setSlot i v).active = s.active := rfl
@[simp] theorem setSlot_enabled (s : State) (i : Nat) (v : Word) : (s.setSlot i v).enabled = s.enabled := rfl
@[simp] theorem setSlot_nextPulse (s : State) (i : Nat) (v : Word) : (s.setSlot i v).nextPulse = s.nextPulse := rfl
@[simp] theorem setSlot_now (s : State) (i : Nat) (v : Word) : (s.setSlot i v).now = s.now := rfl
@[simp] theorem setSlot_ram (s : State) (i : Nat) (v : Word) : (s.setSlot i v).ram = s.ram := rfl
@[simp] theorem setSlot_rom (s : State) (i : Nat) (v : Word) : (s.setSlot i v).rom = s.rom := rfl
@[simp] theorem setSlot_ramdisk (s : State) (i : Nat) (v : Word) : (s.setSlot i v).ramdisk = s.ramdisk := rfl
@[simp] theorem setSlot_irq (s : State) (i : Nat) (v : Word) : (s.setSlot i v).irq = s.irq := rfl
@[simp] theorem setSlot_events (s : State) (i : Nat) (v : Word) : (s.setSlot i v).events = s.events := rfl
@[simp] theorem setSlot_refused (s : State) (i : Nat) (v : Word) : (s.setSlot i v).refused = s.refused := rfl
@[simp] theorem setSlot_blob (s : State) (i : Nat) (v : Word) : (s.setSlot i v).blob = s.blob := rfl
@[simp] theorem setSlot_reports (s : State) (i : Nat) (v : Word) : (s.setSlot i v).reports = s.reports := rfl
@[simp] theorem setSlot_result (s : State) (i : Nat) (v : Word) : (s.setSlot i v).result = s.result := rfl
@[simp] theorem setSlot_replies (s : State) (i : Nat) (v : Word) : (s.setSlot i v).replies = s.replies := rfl
@[simp] theorem setSlot_bridgeCalls (s : State) (i : Nat) (v : Word) : (s.setSlot i v).bridgeCalls = s.bridgeCalls := rfl
@[simp] theorem setSlot_stream (s : State) (i : Nat) (v : Word) : (s.setSlot i v).stream = s.stream := rfl

@[simp] theorem activate_cfg (s : State) : s.activate.cfg = s.cfg := rfl
@[simp] theorem activate_ovr0 (s : State) : s.activate.ovr0 = s.ovr0 := rfl
@[simp] theorem activate_ovr1 (s : State) : s.activate.ovr1 = s.ovr1 := rfl
@[simp] theorem activate_active (s : State) : s.activate.active = true := rfl
@[simp] theorem activate_enabled (s : State) : s.activate.enabled = s.enabled := rfl
@[simp] theorem activate_nextPulse (s : State) : s.activate.nextPulse = s.nextPulse := rfl
@[simp] theorem activate_now (s : State) : s.activate.now = s.now := rfl
@[simp] theorem activate_ram (s : State) : s.activate.ram = s.ram := rfl
@[simp] theorem activate_rom (s : State) : s.activate.rom = s.rom := rfl
@[simp] theorem activate_ramdisk (s : State) : s.activate.ramdisk = s.ramdisk := rfl
@[simp] theorem activate_irq (s : State) : s.activate.irq = s.irq := rfl
@[simp] theorem activate_events (s : State) : s.activate.events = s.events := rfl
@[simp] theorem activate_refused (s : State) : s.activate.refused = s.refused := rfl
@[simp] theorem activate_blob (s : State) : s.activate.blob = s.blob := rfl
@[simp] theorem activate_reports (s : State) : s.activate.reports = s.reports := rfl
@[simp] theorem activate_result (s : State) : s.activate.result = s.result := rfl
@[simp] theorem activate_replies (s : State) : s.activate.replies = s.replies := rfl
@[simp] theorem activate_bridgeCalls (s : State) : s.activate.bridgeCalls = s.bridgeCalls := rfl
@[simp] theorem activate_stream (s : State) : s.activate.stream = s.stream := rfl

@[simp] theorem setEnabled_cfg (s : State) (b : Bool) : (s.setEnabled b).cfg = s.cfg := rfl
@[simp] theorem setEnabled_ovr0 (s : State) (b : Bool) : (s.setEnabled b).ovr0 = s.ovr0 := rfl
@[simp] theorem setEnabled_ovr1 (s : State) (b : Bool) : (s.setEnabled b).ovr1 = s.ovr1 := rfl
@[simp] theorem setEnabled_active (s : State) (b : Bool) : (s.setEnabled b).active = s.active := rfl
@[simp] theorem setEnabled_enabled (s : State) (b : Bool) : (s.setEnabled b).enabled = b := rfl
@[simp] theorem setEnabled_nextPulse (s : State) (b : Bool) : (s.setEnabled b).nextPulse = s.nextPulse := rfl
@[simp] theorem setEnabled_now (s : State) (b : Bool) : (s.setEnabled b).now = s.now := rfl
@[simp] theorem setEnabled_ram (s : State) (b : Bool) : (s.setEnabled b).ram = s.ram := rfl
@[simp] theorem setEnabled_rom (s : State) (b : Bool) : (s.setEnabled b).rom = s.rom := rfl
@[simp] theorem setEnabled_ramdisk (s : State) (b : Bool) : (s.setEnabled b).ramdisk = s.ramdisk := rfl
@[simp] theorem setEnabled_irq (s : State) (b : Bool) : (s.setEnabled b).irq = s.irq := rfl
@[simp] theorem setEnabled_events (s : State) (b : Bool) : (s.setEnabled b).events = s.events := rfl
@[simp] theorem setEnabled_refused (s : State) (b : Bool) : (s.setEnabled b).refused = s.refused := rfl
@[simp] theorem setEnabled_blob (s : State) (b : Bool) : (s.setEnabled b).blob = s.blob := rfl
@[simp] theorem setEnabled_reports (s : State) (b : Bool) : (s.setEnabled b).reports = s.reports := rfl
@[simp] theorem setEnabled_result (s : State) (b : Bool) : (s.setEnabled b).result = s.result := rfl
@[simp] theorem setEnabled_replies (s : State) (b : Bool) : (s.setEnabled b).replies = s.replies := rfl
@[simp] theorem setEnabled_bridgeCalls (s : State) (b : Bool) : (s.setEnabled b).bridgeCalls = s.bridgeCalls := rfl
@[simp] theorem setEnabled_stream (s : State) (b : Bool) : (s.setEnabled b).stream = s.stream := rfl

end Sys2Proof.Machine
end

