-- ==== Sys2Proof/Laws/Ops.lean ====
section
/-! SUPPORT. What each shared operation can do, said once: routing, the interrupt lines, the flags, the bridge
accesses, what a transaction can change, and what a step is. -/

namespace Sys2Proof.Machine

/-! ### Routing -/

theorem covers_iff (w : Window) (a : Word) :
    covers w a = true ↔ w.start.toNat ≤ a.toNat ∧ a.toNat ≤ w.stop.toNat := by
  simp [covers]

theorem lookup_mem {tbl : List Window} {a : Word} {w : Window} (h : lookup tbl a = some w) :
    w ∈ tbl ∧ covers w a = true := by
  induction tbl with
  | nil => simp [lookup] at h
  | cons v tbl ih =>
    rw [lookup] at h
    split at h
    · rename_i hv
      cases h
      exact ⟨by simp, hv⟩
    · exact ⟨List.mem_cons_of_mem _ (ih h).1, (ih h).2⟩

theorem lookup_none {tbl : List Window} {a : Word} :
    lookup tbl a = none ↔ ∀ w ∈ tbl, covers w a = false := by
  induction tbl with
  | nil => simp [lookup]
  | cons v tbl ih =>
    rw [lookup]
    by_cases hv : covers v a = true
    · simp [hv]
    · simp [hv, ih]

theorem windowsDisjoint_cons (w : Window) (tbl : List Window) :
    windowsDisjoint (w :: tbl) = true
      ↔ (∀ v ∈ tbl, w.stop.toNat < v.start.toNat ∨ v.stop.toNat < w.start.toNat)
        ∧ windowsDisjoint tbl = true := by
  simp [windowsDisjoint]

/-- In a table without overlaps two windows that contain one address are the same. -/
theorem window_unique {tbl : List Window} (h : windowsDisjoint tbl = true) {v w : Window} {a : Word} (hv : v ∈ tbl)
    (hw : w ∈ tbl) (hva : covers v a = true) (hwa : covers w a = true) : v = w := by
  rw [covers_iff] at hva hwa
  induction tbl with
  | nil => simp at hv
  | cons u tbl ih =>
    obtain ⟨hu, htbl⟩ := (windowsDisjoint_cons u tbl).1 h
    rcases List.mem_cons.1 hv with hv' | hv' <;> rcases List.mem_cons.1 hw with hw' | hw'
    · rw [hv', hw']
    · have := hu w hw'; rw [← hv'] at this; omega
    · have := hu v hv'; rw [← hw'] at this; omega
    · exact ih htbl hv' hw'

theorem lookup_of_mem {tbl : List Window} (h : windowsDisjoint tbl = true) {w : Window} {a : Word} (hw : w ∈ tbl)
    (hwa : covers w a = true) : lookup tbl a = some w := by
  cases hl : lookup tbl a with
  | none => rw [lookup_none.1 hl w hw] at hwa; cases hwa
  | some v => rw [window_unique h (lookup_mem hl).1 hw (lookup_mem hl).2 hwa]

theorem kindAt_eq_some {tbl : List Window} {a : Word} {k : Kind} :
    kindAt tbl a = some k ↔ ∃ w, lookup tbl a = some w ∧ w.kind = k := by
  simp [kindAt]

/-- The parts of a well-formed set of parameters. -/
theorem wf_parts {c : Config} (h : c.wf = true) :
    windowsOrdered c.windows = true ∧ windowsDisjoint c.windows = true ∧ vectorFixed c.windows = true
      ∧ oneWindowEach c.windows = true ∧ serialAbove c.windows = true ∧ sizesMatch c = true
      ∧ romImageFits c = true ∧ periodPositive c = true ∧ linesDistinct c = true := by
  simpa [Config.wf, and_assoc] using h

/-- Under a well-formed table the first eight addresses are the vector window. -/
theorem lookup_vector {c : Config} (h : c.wf = true) {a : Word} (ha : a.toNat ≤ 7) :
    lookup c.windows a = some ⟨vecBase, 0x00000007, .vector⟩ := by
  obtain ⟨-, hd, hv, -⟩ := wf_parts h
  refine lookup_of_mem hd ?_ ?_
  · have hmem : (⟨vecBase, 0x00000007, .vector⟩ : Window) ∈ windowsOf c.windows .vector := by
      rw [of_decide_eq_true hv]; simp
    exact List.mem_of_mem_filter hmem
  · rw [covers_iff]
    exact ⟨Nat.zero_le _, ha⟩

/-- A store's window is as long as the store. -/
theorem windowSize_of_store {c : Config} (h : c.wf = true) {w : Window} (hw : w ∈ c.windows) :
    (w.kind = .ram → windowSize w = c.ramSize) ∧ (w.kind = .rom → windowSize w = c.romSize)
      ∧ (w.kind = .ramdisk → windowSize w = c.ramdiskSize) := by
  obtain ⟨-, -, -, -, -, hs, -⟩ := wf_parts h
  simp only [sizesMatch, windowsOf, Bool.and_eq_true, List.all_eq_true, List.mem_filter, decide_eq_true_eq,
    and_imp] at hs
  exact ⟨hs.1.1 w hw, hs.1.2 w hw, hs.2 w hw⟩

/-! ### The operation at a window -/

theorem atKind_of_lookup {k : Kind} {a : Word} {s : State} {f : Window → Result} {w : Window}
    (h : lookup s.cfg.windows a = some w) (hk : w.kind = k) : atKind k a s f = f w := by
  simp [atKind, h, hk]

theorem atKind_next {k : Kind} {a : Word} {s t : State} {f : Window → Result} (h : atKind k a s f = .next t) :
    ∃ w, lookup s.cfg.windows a = some w ∧ w.kind = k ∧ f w = .next t := by
  unfold atKind at h
  split at h
  · rename_i w hw
    split at h
    · rename_i hk
      exact ⟨w, hw, hk, h⟩
    · cases h
  · cases h

theorem atKind_misrouted {k : Kind} {a : Word} {s : State} {f : Window → Result}
    (h : kindAt s.cfg.windows a ≠ some k) : atKind k a s f = .refused .misrouted := by
  unfold atKind
  split
  · rename_i w hw
    split
    · rename_i hk
      exact absurd (kindAt_eq_some.2 ⟨w, hw, hk⟩) h
    · rfl
  · rfl

theorem isSerialKind_iff (k : Option Kind) : isSerialKind k = true ↔ ∃ b, k = some (.serial b) := by
  rcases k with _ | k
  · simp [isSerialKind]
  · cases k <;> simp [isSerialKind]

theorem atSerial_of_lookup {a : Word} {s : State} {f : Fin 4 → Window → Result} {w : Window} {b : Fin 4}
    (h : lookup s.cfg.windows a = some w) (hk : w.kind = .serial b) : atSerial a s f = f b w := by
  simp [atSerial, h, hk]

theorem atSerial_next {a : Word} {s t : State} {f : Fin 4 → Window → Result} (h : atSerial a s f = .next t) :
    ∃ w b, lookup s.cfg.windows a = some w ∧ w.kind = .serial b ∧ f b w = .next t := by
  unfold atSerial at h
  split at h
  · rename_i w hw
    split at h
    · rename_i b hk
      exact ⟨w, b, hw, hk, h⟩
    · cases h
  · cases h

theorem atSerial_misrouted {a : Word} {s : State} {f : Fin 4 → Window → Result}
    (h : isSerialKind (kindAt s.cfg.windows a) = false) : atSerial a s f = .refused .misrouted := by
  unfold atSerial
  split
  · rename_i w hw
    split
    · rename_i b hk
      simp [kindAt, hw, hk, isSerialKind] at h
    · rfl
  · rfl

theorem atUnmapped_next {a : Word} {s t : State} {r : Result} (h : atUnmapped a s r = .next t) :
    lookup s.cfg.windows a = none ∧ r = .next t := by
  unfold atUnmapped at h
  split at h
  · cases h
  · rename_i hn
    exact ⟨hn, h⟩

/-! ### Interrupt lines -/

theorem lineLevel_iff (s : State) (l : Nat) : lineLevel s l = true ↔ l ∈ s.irq := by
  simp [lineLevel]

theorem mem_raiseIn {xs : List Nat} {l j : Nat} : j ∈ raiseIn xs l ↔ j ∈ xs ∨ j = l := by
  induction xs with
  | nil => simp [raiseIn]
  | cons x xs ih =>
    rw [raiseIn]
    split
    · simp [or_comm]
    · split
      · rename_i h
        subst h
        simp only [List.mem_cons]
        tauto
      · simp only [List.mem_cons, ih]
        tauto

theorem mem_lowerIn {xs : List Nat} {l j : Nat} : j ∈ lowerIn xs l ↔ j ∈ xs ∧ j ≠ l := by
  simp [lowerIn]

theorem rising_cons (x : Nat) (xs : List Nat) :
    rising (x :: xs) = true ↔ (∀ y ∈ xs, x < y) ∧ rising xs = true := by
  simp [rising]

/-- Asserting a line keeps the list of lines rising. -/
theorem raiseIn_rising {xs : List Nat} (l : Nat) (h : rising xs = true) : rising (raiseIn xs l) = true := by
  induction xs with
  | nil => simp [raiseIn, rising]
  | cons x xs ih =>
    obtain ⟨hx, hxs⟩ := (rising_cons x xs).1 h
    rw [raiseIn]
    split
    · rename_i hl
      refine (rising_cons _ _).2 ⟨?_, h⟩
      intro y hy
      rcases List.mem_cons.1 hy with rfl | hy
      · exact hl
      · exact Nat.lt_trans hl (hx y hy)
    · split
      · exact h
      · refine (rising_cons _ _).2 ⟨?_, ih hxs⟩
        intro y hy
        rcases mem_raiseIn.1 hy with hy | rfl
        · exact hx y hy
        · omega

/-- Clearing a line keeps the list of lines rising. -/
theorem lowerIn_rising {xs : List Nat} (l : Nat) (h : rising xs = true) : rising (lowerIn xs l) = true := by
  induction xs with
  | nil => rfl
  | cons x xs ih =>
    obtain ⟨hx, hxs⟩ := (rising_cons x xs).1 h
    rw [lowerIn, List.filter_cons]
    split
    · refine (rising_cons _ _).2 ⟨fun y hy => hx y (List.mem_of_mem_filter hy), ih hxs⟩
    · exact ih hxs

theorem tickLine_mem (c : Config) : c.tickLine ∈ allLines c := by
  simp [allLines]

theorem bridgeLine_mem (c : Config) (b : Bridge) : bridgeLine c b ∈ allLines c := by
  rcases b with b | _
  · fin_cases b <;> simp [bridgeLine, ofBridge, allLines]
  · simp [bridgeLine, ofBridge, allLines]

/-! ### Flags -/

/-- `TickEnable()` under both policies (42_tick_controller.md R81). -/
theorem tickEnable_eq (s : State) :
    tickEnable s = (s.setEnabled true).setNextPulse
      (if s.cfg.tickPolicy = .restartOnEnable ∧ s.enabled = false then some (s.now + s.cfg.tickPeriod)
        else s.nextPulse) := by
  unfold tickEnable
  split
  · rename_i hp he
    simp [hp, he]
  · rename_i h
    rw [if_neg fun hc => h hc.1 hc.2]
    rfl

/-- `TickDisable()` under both policies (42_tick_controller.md R81). -/
theorem tickDisable_eq (s : State) :
    tickDisable s = (s.setEnabled false).setNextPulse
      (if s.cfg.tickPolicy = .restartOnEnable then none else s.nextPulse) := by
  unfold tickDisable
  split
  · rename_i hp
    simp [hp]
  · rename_i hp
    simp [hp, State.setEnabled, State.setNextPulse]

/-! ### Bridge accesses -/

theorem nonGranular_false {o : LaneOrder} {ad : Adapter} {w : Window} {a m : Word} :
    nonGranular o ad w a m = false ↔ ∀ k, reaches o ad w a m k = true → lane o m k = 0xFF#8 := by
  simp [nonGranular, mem_lanes]

/-- The value of a bridge read, lane by lane (43_bridges.md R85). -/
theorem lane_bridgeValue (c : Config) (ad : Adapter) (w : Window) (a m : Word) (r : Replies) (k : Fin 4) :
    lane c.laneOrder (bridgeValue c ad w a m r) k
      = if reaches c.laneOrder ad w a m k = true then replyOf r k else lane c.laneOrder c.openBus k := by
  rw [bridgeValue, lane_fill c.laneOrder _ _ lanes lanes_nodup]
  simp [mem_lanes]

theorem bridgeRead_cases (b : Bridge) (w : Window) (a m : Word) (s : State) :
    (bridgeRead b w a m s = .refused .nonGranularBridgeMask
        ∧ nonGranular s.cfg.laneOrder (adapterOf s.cfg b) w a m = true)
      ∨ (∃ l v, bridgeRead b w a m s = .next ((s.logCalls l).setResult v)
        ∧ nonGranular s.cfg.laneOrder (adapterOf s.cfg b) w a m = false) := by
  unfold bridgeRead
  by_cases h : nonGranular s.cfg.laneOrder (adapterOf s.cfg b) w a m = true
  · exact .inl ⟨by simp [h], h⟩
  · exact .inr ⟨_, _, by simp only [h]; rfl, by simpa using h⟩

theorem bridgeWrite_cases (b : Bridge) (w : Window) (a d m : Word) (s : State) :
    (bridgeWrite b w a d m s = .refused .nonGranularBridgeMask
        ∧ nonGranular s.cfg.laneOrder (adapterOf s.cfg b) w a m = true)
      ∨ (∃ l, bridgeWrite b w a d m s = .next ((s.logCalls l).setResult none)
        ∧ nonGranular s.cfg.laneOrder (adapterOf s.cfg b) w a m = false) := by
  unfold bridgeWrite
  by_cases h : nonGranular s.cfg.laneOrder (adapterOf s.cfg b) w a m = true
  · exact .inl ⟨by simp [h], h⟩
  · exact .inr ⟨_, by simp only [h]; rfl, by simpa using h⟩

/-! ### What a transaction can do -/

/-- The changes a transaction can make, and which operation makes each. -/
theorem exec_cases {i : Instr} {s t : State} (h : exec i s = .next t) :
    (∃ v, t = s.setResult v)
    ∨ (∃ w a d m j v, i = .vecWr w a d m ∧ t = (s.setSlot j v).setResult none)
    ∨ (((∃ w a m, i = .remapRd w a m) ∨ ∃ w a d m, i = .remapWr w a d m) ∧ ∃ v, t = s.activate.setResult v)
    ∨ (kindAt s.cfg.windows i.addr = some .tickOn ∧ ∃ v, t = (tickEnable s).setResult v)
    ∨ (kindAt s.cfg.windows i.addr = some .tickOff ∧ ∃ v, t = (tickDisable s).setResult v)
    ∨ (∃ l v, t = (s.logCalls l).setResult v)
    ∨ (∃ w a d m x, i = .ramWr w a d m ∧ lookup s.cfg.windows a = some x ∧ x.kind = .ram
        ∧ t = (s.setRam (storeWrite s.cfg.laneOrder x s.ram a d m)).setResult none)
    ∨ (∃ w a d m x, i = .ramdiskWr w a d m ∧ lookup s.cfg.windows a = some x ∧ x.kind = .ramdisk
        ∧ t = (s.setRamdisk (storeWrite s.cfg.laneOrder x s.ramdisk a d m)).setResult none) := by
  have bridged : ∀ {r : Result}, r = .next t →
      (r = .refused .nonGranularBridgeMask ∨ ∃ l v, r = .next ((s.logCalls l).setResult v)) →
      ∃ l v, t = (s.logCalls l).setResult v := by
    intro r hr hc
    rcases hc with hc | ⟨l, v, hc⟩ <;> rw [hc] at hr <;> cases hr
    exact ⟨l, v, rfl⟩
  have rd : ∀ b w a m, bridgeRead b w a m s = .next t → ∃ l v, t = (s.logCalls l).setResult v := by
    intro b w a m hr
    refine bridged hr ?_
    rcases bridgeRead_cases b w a m s with hc | ⟨l, v, hc, -⟩
    · exact .inl hc.1
    · exact .inr ⟨l, v, hc⟩
  have wr : ∀ b w a d m, bridgeWrite b w a d m s = .next t → ∃ l v, t = (s.logCalls l).setResult v := by
    intro b w a d m hr
    refine bridged hr ?_
    rcases bridgeWrite_cases b w a d m s with hc | ⟨l, hc, -⟩
    · exact .inl hc.1
    · exact .inr ⟨l, none, hc⟩
  cases i with
  | unmappedRd w a m => cases (atUnmapped_next h).2; exact .inl ⟨_, rfl⟩
  | unmappedWr w a d m => cases (atUnmapped_next h).2; exact .inl ⟨_, rfl⟩
  | vecRd w a m => obtain ⟨v, -, -, hv⟩ := atKind_next h; cases hv; exact .inl ⟨_, rfl⟩
  | vecWr w a d m =>
    obtain ⟨v, -, -, hv⟩ := atKind_next h; cases hv
    exact .inr (.inl ⟨w, a, d, m, _, _, rfl, rfl⟩)
  | remapRd w a m =>
    obtain ⟨v, -, -, hv⟩ := atKind_next h; cases hv
    exact .inr (.inr (.inl ⟨.inl ⟨w, a, m, rfl⟩, _, rfl⟩))
  | remapWr w a d m =>
    obtain ⟨v, -, -, hv⟩ := atKind_next h; cases hv
    exact .inr (.inr (.inl ⟨.inr ⟨w, a, d, m, rfl⟩, _, rfl⟩))
  | tickonRd w a m =>
    obtain ⟨v, hl, hk, hv⟩ := atKind_next h; cases hv
    exact .inr (.inr (.inr (.inl ⟨kindAt_eq_some.2 ⟨v, hl, hk⟩, _, rfl⟩)))
  | tickonWr w a d m =>
    obtain ⟨v, hl, hk, hv⟩ := atKind_next h; cases hv
    exact .inr (.inr (.inr (.inl ⟨kindAt_eq_some.2 ⟨v, hl, hk⟩, _, rfl⟩)))
  | tickoffRd w a m =>
    obtain ⟨v, hl, hk, hv⟩ := atKind_next h; cases hv
    exact .inr (.inr (.inr (.inr (.inl ⟨kindAt_eq_some.2 ⟨v, hl, hk⟩, _, rfl⟩))))
  | tickoffWr w a d m =>
    obtain ⟨v, hl, hk, hv⟩ := atKind_next h; cases hv
    exact .inr (.inr (.inr (.inr (.inl ⟨kindAt_eq_some.2 ⟨v, hl, hk⟩, _, rfl⟩))))
  | serialRd w a m =>
    obtain ⟨v, b, -, -, hv⟩ := atSerial_next h
    exact .inr (.inr (.inr (.inr (.inr (.inl (rd _ _ _ _ hv))))))
  | serialWr w a d m =>
    obtain ⟨v, b, -, -, hv⟩ := atSerial_next h
    exact .inr (.inr (.inr (.inr (.inr (.inl (wr _ _ _ _ _ hv))))))
  | storageRd w a m =>
    obtain ⟨v, -, -, hv⟩ := atKind_next h
    exact .inr (.inr (.inr (.inr (.inr (.inl (rd _ _ _ _ hv))))))
  | storageWr w a d m =>
    obtain ⟨v, -, -, hv⟩ := atKind_next h
    exact .inr (.inr (.inr (.inr (.inr (.inl (wr _ _ _ _ _ hv))))))
  | ramRd w a m => obtain ⟨v, -, -, hv⟩ := atKind_next h; cases hv; exact .inl ⟨_, rfl⟩
  | ramWr w a d m =>
    obtain ⟨v, hl, hk, hv⟩ := atKind_next h; cases hv
    exact .inr (.inr (.inr (.inr (.inr (.inr (.inl ⟨w, a, d, m, v, rfl, hl, hk, rfl⟩))))))
  | romRd w a m => obtain ⟨v, -, -, hv⟩ := atKind_next h; cases hv; exact .inl ⟨_, rfl⟩
  | romWr w a d m => obtain ⟨v, -, -, hv⟩ := atKind_next h; cases hv; exact .inl ⟨_, rfl⟩
  | ramdiskRd w a m => obtain ⟨v, -, -, hv⟩ := atKind_next h; cases hv; exact .inl ⟨_, rfl⟩
  | ramdiskWr w a d m =>
    obtain ⟨v, hl, hk, hv⟩ := atKind_next h; cases hv
    exact .inr (.inr (.inr (.inr (.inr (.inr (.inr ⟨w, a, d, m, v, rfl, hl, hk, rfl⟩))))))

/-! ### What a step is -/

theorem step_nil {s : State} (h : s.stream = []) : step s = .next s := by
  simp [step, h]

theorem step_cons {s : State} {g : AgentStep} {rest : List AgentStep} (h : s.stream = g :: rest) :
    step s = agentStep g (s.setStream rest) := by
  simp [step, h]

/-- A bus transaction's next state: `exec`'s, or the mark alone (notes/assumptions/7.md). -/
theorem stepBus_cases {x : Encoded} {r : Replies} {s t : State} (h : stepBus x r s = .next t) :
    (∃ i, decode s.cfg.windows x = .ok i ∧ exec i (s.setReplies r) = .next t) ∨ t = s.markRefused := by
  unfold stepBus at h
  split at h
  · rename_i i hi
    unfold settle at h
    split at h
    · cases h
      exact .inr rfl
    · exact .inl ⟨i, hi, h⟩
  · cases h
    exact .inr rfl

/-- What a due pulse does, as one update (60_exceptions.md R106). -/
theorem pulseEffect_eq (p : Nat) (s : State) :
    pulseEffect p s = { s with
      nextPulse := some (p + s.cfg.tickPeriod)
      irq := if s.enabled = true then raiseIn s.irq s.cfg.tickLine else s.irq
      events := if s.enabled = true then s.events ++ [.assertLine s.cfg.tickLine] else s.events } := by
  unfold pulseEffect
  by_cases h : s.enabled = true
  · rw [if_pos h, if_pos h, if_pos h]
    rfl
  · rw [if_neg h, if_neg h, if_neg h]
    rfl

theorem stepPulse_due {s : State} (h : s.nextPulse = some s.now) :
    stepPulse s = .next (pulseEffect s.now s) := by
  unfold stepPulse
  rw [h]
  exact if_pos rfl

theorem stepPulse_notDue {s : State} (h : s.nextPulse ≠ some s.now) : stepPulse s = .refused .pulseNotDue := by
  unfold stepPulse
  split
  · rename_i p hp
    exact if_neg fun e => h (by rw [hp, e])
  · rfl

theorem stepPulse_cases {s t : State} (h : stepPulse s = .next t) :
    s.nextPulse = some s.now ∧ t = pulseEffect s.now s := by
  unfold stepPulse at h
  split at h
  · rename_i p hp
    split at h
    · rename_i hn
      cases h
      exact ⟨by rw [hp, hn], by rw [hn]⟩
    · cases h
  · cases h

theorem timeAllowed_iff (t : Nat) (s : State) :
    timeAllowed t s = true ↔ s.now ≤ t ∧ ∀ p, s.nextPulse = some p → t ≤ p := by
  unfold timeAllowed
  split
  · rename_i p hp
    simp [hp]
  · rename_i hp
    simp [hp]

theorem stepTime_allowed {n : Nat} {s : State} (h : s.now ≤ n) (hp : ∀ p, s.nextPulse = some p → n ≤ p) :
    stepTime n s = .next (s.setNow n) :=
  if_pos ((timeAllowed_iff n s).2 ⟨h, hp⟩)

theorem stepTime_notAllowed {n : Nat} {s : State} (h : ¬ (s.now ≤ n ∧ ∀ p, s.nextPulse = some p → n ≤ p)) :
    stepTime n s = .refused .timeNotAllowed :=
  if_neg fun e => h ((timeAllowed_iff n s).1 e)

theorem stepTime_cases {n : Nat} {s t : State} (h : stepTime n s = .next t) :
    s.now ≤ n ∧ (∀ p, s.nextPulse = some p → n ≤ p) ∧ t = s.setNow n := by
  unfold stepTime at h
  split at h
  · rename_i ha
    cases h
    exact ⟨((timeAllowed_iff n s).1 ha).1, ((timeAllowed_iff n s).1 ha).2, rfl⟩
  · cases h

/-! ### The invariant -/

/-- `scheduleOk`, clause by clause (10_state.md R17, 60_exceptions.md R105, R119). -/
theorem scheduleOk_iff (s : State) :
    s.scheduleOk = true ↔ (∀ p, s.nextPulse = some p → s.now ≤ p)
      ∧ (s.cfg.tickPolicy = .freeRunning → ∃ p, s.nextPulse = some p ∧ s.cfg.tickPhase + s.cfg.tickPeriod ≤ p
        ∧ (p - s.cfg.tickPhase) % s.cfg.tickPeriod = 0)
      ∧ (s.cfg.tickPolicy = .restartOnEnable → s.nextPulse.isSome = s.enabled
        ∧ ∀ p, s.nextPulse = some p → p ≤ s.now + s.cfg.tickPeriod) := by
  unfold State.scheduleOk
  cases hp : s.cfg.tickPolicy <;> cases hn : s.nextPulse <;> cases he : s.enabled <;> simp [and_assoc]

/-- The invariant depends on these fields alone. -/
theorem inv_congr {s t : State} (h : s.Inv) (h1 : t.cfg = s.cfg) (h2 : t.ram = s.ram) (h3 : t.rom = s.rom)
    (h4 : t.ramdisk = s.ramdisk) (h5 : t.irq = s.irq) (h6 : t.nextPulse = s.nextPulse) (h7 : t.now = s.now)
    (h8 : t.enabled = s.enabled) : t.Inv := by
  obtain ⟨hwf, ⟨m1, m2, m3, m4, m5⟩, hli, hsc⟩ := h
  refine ⟨by rw [h1]; exact hwf, ⟨by rw [h2]; exact m1, by rw [h1, h2]; exact m2, by rw [h1, h3]; exact m3,
    by rw [h4]; exact m4, by rw [h1, h4]; exact m5⟩, ⟨by rw [h5]; exact hli.1, by rw [h1, h5]; exact hli.2⟩, ?_⟩
  rw [scheduleOk_iff, h1, h6, h7, h8]
  exact (scheduleOk_iff s).1 hsc

end Sys2Proof.Machine
end

