-- ==== Sys2Proof/Laws/PerInstr.lean ====
section
/-! SUPPORT. What holds of every operation's encoding, one lemma per constructor of Instr. -/

namespace Sys2Proof.Laws

/-- The encoding of an operation: no reserved header bit, a width that is not the reserved one, the address and
nothing else in A, and 13 bytes (30_encoding.md R56, R57, R61, R63). -/
def EncodingFits.Statement (i : Instr) : Prop :=
  (headerField (encode i)).extractLsb' 0 5 = 0 ∧ widthOfBits ((headerField (encode i)).extractLsb' 5 2) ≠ none
    ∧ addressField (encode i) = i.addr ∧ (encodeBytes i).length = 13

theorem encodingFits_read (w : Width) (a m : Word) :
    (headerField (encodeRead w a m)).extractLsb' 0 5 = 0
      ∧ widthOfBits ((headerField (encodeRead w a m)).extractLsb' 5 2) ≠ none
      ∧ addressField (encodeRead w a m) = a ∧ (bytesOf (encodeRead w a m)).length = 13 := by
  obtain ⟨h0, hw, -⟩ := headerByte_fields false w
  rw [encodeRead, header_append, address_append, hw]
  exact ⟨h0, Option.some_ne_none w, rfl, by simp [bytesOf]⟩

theorem encodingFits_write (w : Width) (a d m : Word) :
    (headerField (encodeWrite w a d m)).extractLsb' 0 5 = 0
      ∧ widthOfBits ((headerField (encodeWrite w a d m)).extractLsb' 5 2) ≠ none
      ∧ addressField (encodeWrite w a d m) = a ∧ (bytesOf (encodeWrite w a d m)).length = 13 := by
  obtain ⟨h0, hw, -⟩ := headerByte_fields true w
  rw [encodeWrite, header_append, address_append, hw]
  exact ⟨h0, Option.some_ne_none w, rfl, by simp [bytesOf]⟩

theorem EncodingFits.unmappedRd (w : Width) (a m : Word) : EncodingFits.Statement (.unmappedRd w a m) :=
  encodingFits_read w a m

theorem EncodingFits.unmappedWr (w : Width) (a d m : Word) : EncodingFits.Statement (.unmappedWr w a d m) :=
  encodingFits_write w a d m

theorem EncodingFits.vecRd (w : Width) (a m : Word) : EncodingFits.Statement (.vecRd w a m) :=
  encodingFits_read w a m

theorem EncodingFits.vecWr (w : Width) (a d m : Word) : EncodingFits.Statement (.vecWr w a d m) :=
  encodingFits_write w a d m

theorem EncodingFits.remapRd (w : Width) (a m : Word) : EncodingFits.Statement (.remapRd w a m) :=
  encodingFits_read w a m

theorem EncodingFits.remapWr (w : Width) (a d m : Word) : EncodingFits.Statement (.remapWr w a d m) :=
  encodingFits_write w a d m

theorem EncodingFits.tickonRd (w : Width) (a m : Word) : EncodingFits.Statement (.tickonRd w a m) :=
  encodingFits_read w a m

theorem EncodingFits.tickonWr (w : Width) (a d m : Word) : EncodingFits.Statement (.tickonWr w a d m) :=
  encodingFits_write w a d m

theorem EncodingFits.tickoffRd (w : Width) (a m : Word) : EncodingFits.Statement (.tickoffRd w a m) :=
  encodingFits_read w a m

theorem EncodingFits.tickoffWr (w : Width) (a d m : Word) : EncodingFits.Statement (.tickoffWr w a d m) :=
  encodingFits_write w a d m

theorem EncodingFits.serialRd (w : Width) (a m : Word) : EncodingFits.Statement (.serialRd w a m) :=
  encodingFits_read w a m

theorem EncodingFits.serialWr (w : Width) (a d m : Word) : EncodingFits.Statement (.serialWr w a d m) :=
  encodingFits_write w a d m

theorem EncodingFits.storageRd (w : Width) (a m : Word) : EncodingFits.Statement (.storageRd w a m) :=
  encodingFits_read w a m

theorem EncodingFits.storageWr (w : Width) (a d m : Word) : EncodingFits.Statement (.storageWr w a d m) :=
  encodingFits_write w a d m

theorem EncodingFits.ramRd (w : Width) (a m : Word) : EncodingFits.Statement (.ramRd w a m) :=
  encodingFits_read w a m

theorem EncodingFits.ramWr (w : Width) (a d m : Word) : EncodingFits.Statement (.ramWr w a d m) :=
  encodingFits_write w a d m

theorem EncodingFits.romRd (w : Width) (a m : Word) : EncodingFits.Statement (.romRd w a m) :=
  encodingFits_read w a m

theorem EncodingFits.romWr (w : Width) (a d m : Word) : EncodingFits.Statement (.romWr w a d m) :=
  encodingFits_write w a d m

theorem EncodingFits.ramdiskRd (w : Width) (a m : Word) : EncodingFits.Statement (.ramdiskRd w a m) :=
  encodingFits_read w a m

theorem EncodingFits.ramdiskWr (w : Width) (a d m : Word) : EncodingFits.Statement (.ramdiskWr w a d m) :=
  encodingFits_write w a d m

end Sys2Proof.Laws
end

