-- ==== Sys2Proof/Tests/Slice0.lean ====
section
/-! SUPPORT. The model's own tests: each well-formedness check refuses something, every constructor decodes from a
word written out from the spec's encoding, small steps against 95_test_vectors.md (its ids in the names), and a
witness for the hypotheses of each obligation. Expected values come from the spec. -/

namespace Sys2Proof.Tests

open Sys2Proof.Machine

/-! ## Helpers -/

/-- The state of a `next` outcome. -/
def nextOf : Result → Option State
  | .next t => some t
  | _ => none

/-- The refusal of an outcome. -/
def refusalOf : Result → Option Refusal
  | .refused r => some r
  | _ => none

/-- The instruction of a decoded word. -/
def okOf : Except DecodeError Instr → Option Instr
  | .ok i => some i
  | .error _ => none

/-- What a transaction returns. -/
def valueOf (r : Result) : Option (Option Word) := (nextOf r).map State.result

/-- The state `RST` of 95_test_vectors.md section 0. -/
def rst : State := State.reset

/-- `s` with one step to take. -/
def given (s : State) (g : AgentStep) : State := { s with stream := [g] }

def ex : List Window := exampleWindows

/-- The map `EX-U` of 95_test_vectors.md section 2.6. -/
def exU : Config :=
  { Config.illustrative with
    windows := [⟨0x00000000, 0x00000007, .vector⟩, ⟨0x00000008, 0x000FFFFF, .ram⟩,
      ⟨0x00100002, 0x00101001, .ramdisk⟩, ⟨0xFE000000, 0xFE00FFFF, .rom⟩, ⟨0xFF000000, 0xFF000003, .remap⟩,
      ⟨0xFF000004, 0xFF000007, .tickOn⟩, ⟨0xFF000008, 0xFF00000B, .tickOff⟩, ⟨0xFF000010, 0xFF00001F, .storage⟩,
      ⟨0xFF000020, 0xFF00002F, .serial 0⟩, ⟨0xFF000030, 0xFF00003F, .serial 1⟩, ⟨0xFF000040, 0xFF00004F, .serial 2⟩,
      ⟨0xFF000050, 0xFF00005F, .serial 3⟩]
    ramdiskSize := 0x1000 }

def rstU : State := { rst with cfg := exU }

/-- `RST` under RESTART_ON_ENABLE. -/
def rstR : State := { rst with cfg := { Config.illustrative with tickPolicy := .restartOnEnable }, nextPulse := none }

/-- `RST` with the storage adapter of vectors B6 to B8: lane 3 alone, stride 4. -/
def rstA : State :=
  { rst with cfg := { Config.illustrative with adapters :=
      { Config.illustrative.adapters with storage := ⟨⟨false, false, false, true⟩, .four⟩ } } }

/-! ## Each well-formedness check refuses something (20_memory.md R36, 00_scope.md R6) -/

theorem test_wf_illustrative : Config.illustrative.wf = true := by decide

theorem test_wf_exU : exU.wf = true := by decide

theorem test_wf_windowsOrdered : windowsOrdered [⟨0x00000010, 0x0000000F, .ram⟩] = false := by decide

/-- P1: a RAM window that ends at 0xFE000000 overlaps the ROM. -/
theorem test_wf_windowsDisjoint :
    windowsDisjoint [⟨0x00000008, 0xFE000000, .ram⟩, ⟨0xFE000000, 0xFE00FFFF, .rom⟩] = false := by decide

theorem test_wf_vectorFixed : vectorFixed [⟨0x00000000, 0x00000003, .vector⟩] = false := by decide

theorem test_wf_oneWindowEach : oneWindowEach (ex.filter fun w => w.kind ≠ .serial 2) = false := by decide

theorem test_wf_serialAbove :
    serialAbove [⟨0xFF000010, 0xFF00001F, .storage⟩, ⟨0xFF000000, 0xFF00000F, .serial 0⟩] = false := by decide

theorem test_wf_sizesMatch : sizesMatch { Config.illustrative with ramSize := 0xFFFF7 } = false := by decide

theorem test_wf_romImageFits :
    romImageFits { Config.illustrative with romImage := [(0x10000, 0x01)] } = false := by decide

theorem test_wf_periodPositive : periodPositive { Config.illustrative with tickPeriod := 0 } = false := by decide

theorem test_wf_linesDistinct : linesDistinct { Config.illustrative with tickLine := 5 } = false := by decide

theorem test_wf_memoryOrder : memoryWf [(2, 0x01), (1, 0x01)] = false := by decide

theorem test_wf_memoryNoZero : memoryWf [(1, 0x00)] = false := by decide

theorem test_wf_memoryWithin : memoryWithin 4 [(4, 0x01)] = false := by decide

/-- 0x00000008 is RAM, so no vector access. -/
theorem test_wf_instr : Instr.wf ex (.vecRd .w32 0x00000008 0xFFFFFFFF) = false := by decide

theorem test_wf_instr_unmapped : Instr.wf ex (.unmappedWr .w8 0x00000008 0x00000000 0x00000000) = false := by decide

/-! ## Every constructor decodes (30_encoding.md R56 to R58; the words as 95_test_vectors.md writes them) -/

theorem test_decode_unmappedRd : okOf (decode ex 0x00_80000000_00000000_00000000#104)
    = some (.unmappedRd .w8 0x80000000 0x00000000) := by decide

theorem test_decode_unmappedWr : okOf (decode ex 0xC0_FF00000C_00000001_FFFFFFFF#104)
    = some (.unmappedWr .w32 0xFF00000C 0x00000001 0xFFFFFFFF) := by decide

theorem test_decode_vecRd : okOf (decode ex 0x20_00000002_00000000_0000FFFF#104)
    = some (.vecRd .w16 0x00000002 0x0000FFFF) := by decide

theorem test_decode_vecWr : okOf (decode ex 0x80_00000001_00AB0000_00FF0000#104)
    = some (.vecWr .w8 0x00000001 0x00AB0000 0x00FF0000) := by decide

theorem test_decode_remapRd : okOf (decode ex 0x40_FF000003_00000000_FFFFFFFF#104)
    = some (.remapRd .w32 0xFF000003 0xFFFFFFFF) := by decide

theorem test_decode_remapWr : okOf (decode ex 0xC0_FF000002_DEADBEEF_FFFFFFFF#104)
    = some (.remapWr .w32 0xFF000002 0xDEADBEEF 0xFFFFFFFF) := by decide

theorem test_decode_tickonRd : okOf (decode ex 0x40_FF000004_00000000_FFFFFFFF#104)
    = some (.tickonRd .w32 0xFF000004 0xFFFFFFFF) := by decide

theorem test_decode_tickonWr : okOf (decode ex 0x80_FF000004_00000000_FF000000#104)
    = some (.tickonWr .w8 0xFF000004 0x00000000 0xFF000000) := by decide

theorem test_decode_tickoffRd : okOf (decode ex 0x20_FF00000A_00000000_0000FFFF#104)
    = some (.tickoffRd .w16 0xFF00000A 0x0000FFFF) := by decide

theorem test_decode_tickoffWr : okOf (decode ex 0xC0_FF000008_00000001_FFFFFFFF#104)
    = some (.tickoffWr .w32 0xFF000008 0x00000001 0xFFFFFFFF) := by decide

theorem test_decode_serialRd : okOf (decode ex 0x40_FF000030_00000000_00000000#104)
    = some (.serialRd .w32 0xFF000030 0x00000000) := by decide

theorem test_decode_serialWr : okOf (decode ex 0xA0_FF000022_0000ABCD_0000FFFF#104)
    = some (.serialWr .w16 0xFF000022 0x0000ABCD 0x0000FFFF) := by decide

theorem test_decode_storageRd : okOf (decode ex 0x00_FF000011_00000000_00FF0000#104)
    = some (.storageRd .w8 0xFF000011 0x00FF0000) := by decide

theorem test_decode_storageWr : okOf (decode ex 0x80_FF000016_0000C300_0000FF00#104)
    = some (.storageWr .w8 0xFF000016 0x0000C300 0x0000FF00) := by decide

theorem test_decode_ramRd : okOf (decode ex 0x00_00000013_00000000_000000FF#104)
    = some (.ramRd .w8 0x00000013 0x000000FF) := by decide

theorem test_decode_ramWr : okOf (decode ex 0xC0_00000010_11223344_FFFFFFFF#104)
    = some (.ramWr .w32 0x00000010 0x11223344 0xFFFFFFFF) := by decide

theorem test_decode_romRd : okOf (decode ex 0x40_FE000000_00000000_FFFFFFFF#104)
    = some (.romRd .w32 0xFE000000 0xFFFFFFFF) := by decide

theorem test_decode_romWr : okOf (decode ex 0xC0_FE000000_00000000_FFFFFFFF#104)
    = some (.romWr .w32 0xFE000000 0x00000000 0xFFFFFFFF) := by decide

theorem test_decode_ramdiskRd : okOf (decode ex 0x40_0010FFFC_00000000_FFFFFFFF#104)
    = some (.ramdiskRd .w32 0x0010FFFC 0xFFFFFFFF) := by decide

theorem test_decode_ramdiskWr : okOf (decode ex 0xC0_00100000_CAFEF00D_FFFFFFFF#104)
    = some (.ramdiskWr .w32 0x00100000 0xCAFEF00D 0xFFFFFFFF) := by decide

/-- E6: a read's DATA is ignored. -/
theorem test_decode_E6 : decode ex 0x40_00000004_12345678_FFFFFFFF#104
    = decode ex 0x40_00000004_00000000_FFFFFFFF#104 := by decide

/-- E3 and E4: `WID = 11`. -/
theorem test_decode_E3_E4 : decode ex 0x60_00000004_00000000_FFFFFFFF#104 = .error .reservedWidth
    ∧ decode ex 0xE0_00000004_00000000_FFFFFFFF#104 = .error .reservedWidth := by decide

/-- E5: a reserved bit. -/
theorem test_decode_E5 : decode ex 0x41_00000004_00000000_FFFFFFFF#104 = .error .reservedBits
    ∧ decode ex 0x9F_00000004_00000000_FFFFFFFF#104 = .error .reservedBits := by decide

theorem test_decode_short : decodeBytes ex [0x40, 0x00, 0x00, 0x00, 0x04] = .error .wrongLength := by decide

/-- E11 and E1, E2: the bytes in the order they are written. -/
theorem test_encode_E11 : encodeBytes (.ramWr .w16 0x00000012 0x0000AA44 0x0000FFFF)
    = [0xA0, 0x00, 0x00, 0x00, 0x12, 0x00, 0x00, 0xAA, 0x44, 0x00, 0x00, 0xFF, 0xFF] := by decide

/-! ## Operands (30_encoding.md R60, R65) -/

theorem test_canonMask_E7_E8 : canonMask .big 0x00000012 .w16 = some 0x0000FFFF
    ∧ canonMask .little 0x00000012 .w16 = some 0xFFFF0000 := by decide

theorem test_canonMask_E9 : canonMask .big 0x00000013 .w8 = some 0x000000FF
    ∧ canonMask .little 0x00000013 .w8 = some 0xFF000000 := by decide

theorem test_canonMask_E10 : canonMask .big 0x00000013 .w16 = none := by decide

theorem test_writeForm_E11 :
    writeForm .big .w16 0x00000012 0x0000AA44 = some 0xA0_00000012_0000AA44_0000FFFF#104 := by decide

theorem test_writeForm_E12 :
    writeForm .little .w16 0x00000012 0x0000AA44 = some 0xA0_00000012_AA440000_FFFF0000#104
      ∧ lane .little 0xAA440000 2 = 0x44 ∧ lane .little 0xAA440000 3 = 0xAA := by decide

theorem test_extract_E13 : extract .big 0xBEEFAA44 0x00000012 .w16 = some 0x0000AA44 := by decide

/-- E14: a 32-bit access at 0x00000012 is two transactions, each of 16 bits. -/
theorem test_cpuParts_E14 :
    (cpuParts .big .w32 0x00000000 0x00000012).map (List.map fun p => encodeRead p.width p.addr p.mask)
      = some [0x20_00000012_00000000_0000FFFF#104, 0x20_00000014_00000000_FFFF0000#104] := by decide

/-- The bytes of a split write go to their lanes, the most significant first under BIG. -/
theorem test_cpuParts_data :
    (cpuParts .big .w32 0x11223344 0x00000012).map (List.map CpuPart.data)
      = some [0x00001122, 0x33440000] := by decide

theorem test_cpuParts_top : cpuParts .big .w32 0x00000000 0xFFFFFFFE = none := by decide

/-! ## Memory -/

theorem test_memory_reset : memoryWf rst.ram = true ∧ memoryWf rst.rom = true ∧ memoryWf rst.ramdisk = true := by decide

theorem test_memory_zero_unlists : memWrite [(1, 0x05), (3, 0x07)] 1 0x00 = [(3, 0x07)] := by decide

theorem test_memory_between : memWrite [(1, 0x05), (3, 0x07)] 2 0x06 = [(1, 0x05), (2, 0x06), (3, 0x07)] := by decide

/-! ## The operations: at most two small tests each -/

/-- X2. -/
theorem test_unmappedRd_X2 : valueOf (exec (.unmappedRd .w32 0xFF00000C 0xFFFFFFFF) rst) = some (some 0xFFFFFFFF) := by
  decide

/-- X7: routing is by `A`, and lanes 2 and 3 are not read from the ramdisk. -/
theorem test_unmappedRd_X7 :
    valueOf (exec (.unmappedRd .w32 0x00100000 0xFFFFFFFF) { rstU with ramdisk := [(0, 0x01)] })
      = some (some 0xFFFFFFFF) := by decide

/-- X3. -/
theorem test_unmappedWr_X3 : nextOf (exec (.unmappedWr .w32 0xFF00000C 0x00000001 0xFFFFFFFF) rst) = some rst := by
  decide

/-- X8. -/
theorem test_unmappedWr_X8 : nextOf (exec (.unmappedWr .w32 0x00100000 0x11223344 0xFFFFFFFF) rstU) = some rstU := by
  decide

/-- S1. -/
theorem test_vecRd_S1 : valueOf (exec (.vecRd .w32 0x00000004 0xFFFFFFFF) rst) = some (some 0xFE000494) := by decide

/-- V10's second step. -/
theorem test_vecRd_V10 :
    valueOf (exec (.vecRd .w32 0x00000004 0xFFFFFFFF) { rst with active := true, ovr0 := 0x11111111, ovr1 := 0x22222222 })
      = some (some 0x22222222) := by decide

/-- V6. -/
theorem test_vecWr_V6 :
    (nextOf (exec (.vecWr .w16 0x00000006 0x0000BEEF 0x0000FFFF) { rst with ovr1 := 0x12345678 })).map
      (fun t => (t.ovr0, t.ovr1)) = some (0x00000000, 0x1234BEEF) := by decide

/-- V7. -/
theorem test_vecWr_V7 :
    (nextOf (exec (.vecWr .w32 0x00000000 0xFFFFFFFF 0x0F0F0F0F) rst)).map State.ovr0 = some 0x0F0F0F0F := by decide

/-- V9. -/
theorem test_remapRd_V9 :
    (nextOf (exec (.remapRd .w32 0xFF000000 0x00000000) rst)).map (fun t => (t.active, t.result))
      = some (true, some 0x00000000) := by decide

/-- V11. -/
theorem test_remapWr_V11 :
    (nextOf (exec (.remapWr .w32 0xFF000000 0x12345678 0xFFFFFFFF) rst)).map (fun t => (t.active, t.ovr0))
      = some (true, 0x00000000) := by decide

/-- T3: under FREE_RUNNING the schedule stands. -/
theorem test_tickonRd_T3 :
    (nextOf (exec (.tickonRd .w32 0xFF000004 0xFFFFFFFF) { rst with now := 150, nextPulse := some 200 })).map
      (fun t => (t.enabled, t.nextPulse)) = some (true, some 200) := by decide

/-- T4: under RESTART_ON_ENABLE the enable starts the schedule. -/
theorem test_tickonRd_T4 :
    (nextOf (exec (.tickonRd .w32 0xFF000004 0xFFFFFFFF) { rstR with now := 150 })).map
      (fun t => (t.enabled, t.nextPulse)) = some (true, some 250) := by decide

/-- T12. -/
theorem test_tickonWr_T12 :
    (nextOf (exec (.tickonWr .w32 0xFF000004 0x00000000 0x00000000) rst)).map State.enabled = some true := by decide

/-- T5: an enable of an enabled controller leaves the schedule. -/
theorem test_tickonWr_T5 :
    (nextOf (exec (.tickonWr .w8 0xFF000004 0x00000000 0xFF000000)
      { rstR with enabled := true, now := 170, nextPulse := some 250 })).map State.nextPulse = some (some 250) := by
  decide

/-- T6. -/
theorem test_tickoffRd_T6 :
    (nextOf (exec (.tickoffRd .w32 0xFF000008 0xFFFFFFFF)
      { rstR with enabled := true, now := 300, nextPulse := some 350 })).map (fun t => (t.enabled, t.nextPulse))
      = some (false, none) := by decide

/-- T13. -/
theorem test_tickoffRd_T13 :
    (nextOf (exec (.tickoffRd .w16 0xFF00000A 0x0000FFFF) rst)).map (fun t => (t.enabled, t.result))
      = some (false, some 0x00000000) := by decide

/-- T9: the asserted line stays. -/
theorem test_tickoffWr_T9 :
    (nextOf (exec (.tickoffWr .w32 0xFF000008 0x00000001 0xFFFFFFFF) { rst with enabled := true, irq := [0] })).map
      (fun t => (t.enabled, lineLevel t 0, t.nextPulse)) = some (false, true, some 100) := by decide

/-- B4: a mask of 0 reaches nothing. -/
theorem test_serialRd_B4 :
    (nextOf (exec (.serialRd .w32 0xFF000030 0x00000000) rst)).map (fun t => (t.result, t.bridgeCalls))
      = some (some 0xFFFFFFFF, []) := by decide

/-- Two lanes of serial 2, as the test double answers them (0x20 + register). -/
theorem test_serialRd_lanes :
    (nextOf (exec (.serialRd .w16 0xFF000042 0x0000FFFF) { rst with replies := ⟨0x99, 0x99, 0x22, 0x23⟩ })).map
      (fun t => (t.result, t.bridgeCalls))
      = some (some 0xFFFF2223, [.read (.serial 2) 2 0x22, .read (.serial 2) 3 0x23]) := by decide

/-- B3. -/
theorem test_serialWr_B3 :
    (nextOf (exec (.serialWr .w16 0xFF000022 0x0000ABCD 0x0000FFFF) rst)).map State.bridgeCalls
      = some [.write (.serial 0) 2 0xAB, .write (.serial 0) 3 0xCD] := by decide

/-- B1. -/
theorem test_storageRd_B1 :
    (nextOf (exec (.storageRd .w8 0xFF000011 0x00FF0000) { rst with replies := ⟨0x10, 0x11, 0x12, 0x13⟩ })).map
      (fun t => (t.result, t.bridgeCalls)) = some (some 0xFF11FFFF, [.read .storage 1 0x11]) := by decide

/-- B8: stride 4. -/
theorem test_storageRd_B8 :
    (nextOf (exec (.storageRd .w32 0xFF000018 0xFFFFFFFF) { rstA with replies := ⟨0x00, 0x00, 0x00, 0x12⟩ })).map
      (fun t => (t.result, t.bridgeCalls)) = some (some 0xFFFFFF12, [.read .storage 2 0x12]) := by decide

/-- S4 and B6. -/
theorem test_storageWr_S4_B6 :
    (nextOf (exec (.storageWr .w8 0xFF000016 0x0000C300 0x0000FF00) rst)).map State.bridgeCalls
        = some [.write .storage 6 0xC3]
      ∧ (nextOf (exec (.storageWr .w32 0xFF000014 0x000000AB 0xFFFFFFFF) rstA)).map State.bridgeCalls
        = some [.write .storage 1 0xAB] := by decide

/-- B7 is not refused; B5 is. -/
theorem test_storageWr_B7_B5 :
    nextOf (exec (.storageWr .w32 0xFF000014 0xFF000000 0x0F000000) rstA) = some rstA
      ∧ refusalOf (exec (.storageWr .w8 0xFF000010 0xFF000000 0x0F000000) rst) = some .nonGranularBridgeMask := by
  decide

/-- M3: every in-window lane, whatever the mask. -/
theorem test_ramRd_M3 :
    valueOf (exec (.ramRd .w8 0x00000013 0x000000FF)
      { rst with ram := [(8, 0x11), (9, 0x22), (10, 0xAA), (11, 0x44)] }) = some (some 0x1122AA44) := by decide

/-- M2. -/
theorem test_ramWr_M2 :
    (nextOf (exec (.ramWr .w8 0x00000012 0x0000AA00 0x0000FF00)
      { rst with ram := [(8, 0x11), (9, 0x22), (10, 0x33), (11, 0x44)] })).map State.ram
      = some [(8, 0x11), (9, 0x22), (10, 0xAA), (11, 0x44)] := by decide

/-- M4: a bit merge. -/
theorem test_ramWr_M4 :
    (nextOf (exec (.ramWr .w8 0x00000010 0xFF000000 0x0F000000) { rst with ram := [(8, 0x11)] })).map State.ram
      = some [(8, 0x1F)] := by decide

/-- M5's read. -/
theorem test_romRd_M5 : valueOf (exec (.romRd .w32 0xFE000000 0xFFFFFFFF) rst) = some (some 0x4E714E75) := by decide

/-- M5's write. -/
theorem test_romWr_M5 : nextOf (exec (.romWr .w32 0xFE000000 0x00000000 0xFFFFFFFF) rst) = some rst := by decide

/-- M6: the last word of the ramdisk. -/
theorem test_ramdiskRd_M6 : valueOf (exec (.ramdiskRd .w32 0x0010FFFC 0xFFFFFFFF) rst) = some (some 0x00000000) := by
  decide

/-- M10: lanes 0 and 1 lie outside the window. -/
theorem test_ramdiskRd_M10 :
    valueOf (exec (.ramdiskRd .w32 0x00100002 0xFFFFFFFF) { rstU with ramdisk := [(0, 0x33), (1, 0x44)] })
      = some (some 0xFFFF3344) := by decide

/-- M9: lanes 0 and 1 are discarded. -/
theorem test_ramdiskWr_M9 :
    (nextOf (exec (.ramdiskWr .w32 0x00100002 0x11223344 0xFFFFFFFF) rstU)).map State.ramdisk
      = some [(0, 0x33), (1, 0x44)] := by decide

/-! ## The agents' steps -/

/-- B5 as a step: the run goes on, marked, and nothing else changed (00_scope.md R9). -/
theorem test_step_B5 :
    nextOf (step (given rst (.bus 0x80_FF000010_FF000000_0F000000#104 rst.replies))) = some { rst with refused := true } := by
  decide

/-- E3 as a step. -/
theorem test_step_E3 :
    nextOf (step (given rst (.bus 0x60_00000004_00000000_FFFFFFFF#104 rst.replies))) = some { rst with refused := true } := by
  decide

/-- S1, numbered as the opcode table numbers it: TH is bits 7:0, A is bytes 1 to 4, the mask is bytes 9 to 12. -/
theorem test_withFetchWord_S1 :
    valueOf (step (rst.withFetchWord 104 0xFFFFFFFF_00000000_04000000_40)) = some (some 0xFE000494)
      ∧ decodeTableWord 104 0xFFFFFFFF_00000000_04000000_40 = some (.vecRd .w32 0x00000004 0xFFFFFFFF) := by decide

/-- T8: a second assertion is a second event. -/
theorem test_pulse_T8 :
    (nextOf (step { rst with
      enabled := true, irq := [0], events := [.assertLine 0], now := 200, nextPulse := some 200, stream := [.pulse] })).map
      (fun t => (t.irq, t.events, t.nextPulse)) = some ([0], [.assertLine 0, .assertLine 0], some 300) := by decide

/-- T2: no assertion while disabled. -/
theorem test_pulse_T2 :
    (nextOf (step { rst with now := 100, stream := [.pulse] })).map (fun t => (t.irq, t.events, t.nextPulse))
      = some ([], [], some 200) := by decide

/-- T10: CLEAR. -/
theorem test_clear_T10 :
    (nextOf (step { rst with irq := [0, 3], stream := [.clear 0] })).map (fun t => (t.irq, t.events)) = some ([3], []) := by
  decide

/-- T11: TIME may not pass a pending pulse; ADVANCE begins with TIME and PULSE. -/
theorem test_time_T11 :
    refusalOf (step { rst with now := 150, nextPulse := some 200, stream := [.time 250] }) = some .timeNotAllowed
      ∧ (nextOf (step { rst with now := 150, nextPulse := some 200, stream := [.advance 250] })).map State.stream
        = some [.time 200, .pulse, .advance 250] := by decide

/-- B9: the line of serial 2 is the number 3 of notes/assumptions/13.md. -/
theorem test_bridgeLine_B9 :
    (nextOf (step (given rst (.bridgeAssert (.serial 2))))).map (fun t => (t.irq, t.events))
        = some ([3], [.assertLine 3])
      ∧ (nextOf (step (given { rst with irq := [3] } (.bridgeDeassert (.serial 2))))).map (fun t => (t.irq, t.events))
        = some ([], [.deassertLine 3]) := by decide

/-- M11: a blob of the wrong length is reported and the ramdisk is all 0x00. -/
theorem test_reset_M11 :
    (nextOf (step { rst with
      blob := some ⟨0xFFFF, [(0, 0xCA)]⟩, reports := [], stream := [.reset ⟨0x5, [], true⟩] })).map
      (fun t => (t.ramdisk, t.reports, t.ovr1)) = some ([], [.loadFailed], 0x00000005) := by decide

/-- Program 4, steps 2 and 3: the saved ramdisk comes back. -/
theorem test_reset_program4 :
    (nextOf (step { rst with
      blob := some ⟨0x10000, [(0, 0xCA), (1, 0xFE)]⟩, active := true, reports := [],
      stream := [.reset ⟨0x0, [(8, 0x77)], true⟩] })).map
      (fun t => (t.ramdisk, t.reports, t.active, t.ram)) = some ([(0, 0xCA), (1, 0xFE)], [], false, [(8, 0x77)]) := by
  decide

/-! ## Witnesses: a concrete state and operands that meet the hypotheses of each obligation, clause by clause -/

/-- One well-formed transaction of each operation. -/
def oneEach : List Instr :=
  [.unmappedRd .w8 0x80000000 0x00000000, .unmappedWr .w32 0xFF00000C 0x00000001 0xFFFFFFFF,
    .vecRd .w16 0x00000002 0x0000FFFF, .vecWr .w8 0x00000001 0x00AB0000 0x00FF0000,
    .remapRd .w32 0xFF000003 0xFFFFFFFF, .remapWr .w32 0xFF000002 0xDEADBEEF 0xFFFFFFFF,
    .tickonRd .w32 0xFF000004 0xFFFFFFFF, .tickonWr .w8 0xFF000004 0x00000000 0xFF000000,
    .tickoffRd .w16 0xFF00000A 0x0000FFFF, .tickoffWr .w32 0xFF000008 0x00000001 0xFFFFFFFF]
  ++ [.serialRd .w32 0xFF00005F 0x00000000, .serialWr .w16 0xFF000022 0x0000ABCD 0x0000FFFF,
    .storageRd .w8 0xFF000011 0x00FF0000, .storageWr .w8 0xFF00001F 0x0000C300 0x000000FF,
    .ramRd .w8 0x000FFFFF 0x000000FF, .ramWr .w32 0x00000008 0x11223344 0xFFFFFFFF,
    .romRd .w32 0xFE000000 0xFFFFFFFF, .romWr .w32 0xFE00FFFF 0x00000000 0xFFFFFFFF,
    .ramdiskRd .w32 0x00100000 0xFFFFFFFF, .ramdiskWr .w32 0x0010FFFF 0xCAFEF00D 0xFFFFFFFF]

/-- DecodeOfEncodeGivesTheTransaction and DecodeOfTheThirteenBytes. -/
theorem witness_decodeOfEncode : ∀ i ∈ oneEach, i.wf ex = true := by decide

theorem witness_encodeOfDecode :
    decode ex 0x40_00000004_12345678_FFFFFFFF#104 = .ok (.vecRd .w32 0x00000004 0xFFFFFFFF)
      ∧ decode ex 0xC0_00000000_12345678_FFFFFFFF#104 = .ok (.vecWr .w32 0x00000000 0x12345678 0xFFFFFFFF) := by decide

/-- LookupFindsTheWindowOfTheAddress, at the ends of windows and in the gap. -/
theorem witness_lookup : windowsDisjoint ex = true ∧ ex.reverse.Perm ex
    ∧ kindAt ex 0x00000007 = some .vector ∧ kindAt ex 0x00000008 = some .ram ∧ kindAt ex 0xFF00000B = some .tickOff
    ∧ kindAt ex 0xFF00000C = none ∧ kindAt ex 0xFF00000F = none ∧ kindAt ex 0xFF000010 = some .storage :=
  ⟨by decide, List.reverse_perm ex, by decide, by decide, by decide, by decide, by decide, by decide⟩

/-- StepRunsTheDecodedTransaction and EveryTransactionHasAStep: a word that decodes, one that is refused at its bridge
mask, one that is no transaction. -/
theorem witness_stepRuns :
    (given rst (.bus 0xC0_FF000004_00000000_FFFFFFFF#104 rst.replies)).stream
        = [.bus 0xC0_FF000004_00000000_FFFFFFFF#104 rst.replies]
      ∧ decode rst.cfg.windows 0xC0_FF000004_00000000_FFFFFFFF#104
        = .ok (.tickonWr .w32 0xFF000004 0x00000000 0xFFFFFFFF)
      ∧ decode rst.cfg.windows 0x80_FF000010_FF000000_0F000000#104
        = .ok (.storageWr .w8 0xFF000010 0xFF000000 0x0F000000)
      ∧ decode rst.cfg.windows 0x60_00000004_00000000_FFFFFFFF#104 = .error .reservedWidth := by decide

theorem witness_misrouted : Instr.wf rst.cfg.windows (.ramWr .w32 0x00000007 0x00000000 0xFFFFFFFF) = false
    ∧ Instr.wf rst.cfg.windows (.serialRd .w8 0xFF00001F 0x000000FF) = false := by decide

/-- UnmappedReadReturnsOpenBus and UnmappedWriteIsDiscarded. -/
theorem witness_unmapped : lookup rst.cfg.windows 0x80000000 = none ∧ lookup rst.cfg.windows 0xFF00000F = none
    ∧ lookup rst.cfg.windows 0xFFFFFFFF = none := by decide

/-- VectorReadReturnsConstantOrOverride and VectorWriteMergesIntoTheSlot, at both ends of both slots. -/
theorem witness_vector : rst.cfg.wf = true ∧ (0x00000000 : Word).toNat ≤ 7 ∧ (0x00000003 : Word).toNat ≤ 7
    ∧ (0x00000004 : Word).toNat ≤ 7 ∧ (0x00000007 : Word).toNat ≤ 7 :=
  ⟨test_wf_illustrative, by decide, by decide, by decide, by decide⟩

theorem witness_vector_values :
    (nextOf (exec (.vecRd .w8 0x00000003 0x000000FF) { rst with active := true, ovr0 := 0x5, ovr1 := 0x6 })).map
        State.result = some (some 0x5)
      ∧ (nextOf (exec (.vecWr .w8 0x00000003 0x000000AA 0x000000FF) rst)).map (fun t => (t.ovr0, t.ovr1))
        = some (0xAA, 0x0) := by decide

theorem witness_remap :
    lookup rst.cfg.windows 0xFF000003 = some ⟨0xFF000000, 0xFF000003, .remap⟩ := by decide

/-- ActiveStaysUntilReset, EnabledChangesOnlyThroughItsWindows, StoresChangeOnlyThroughTheirWindow and
TimeAndEventsOnlyGrow ask that the step is no RESET: the steps of their witnesses are none. -/
theorem witness_noReset (s : State) (x : Encoded) (r : Replies) (d : PowerOn) (rest : List AgentStep) :
    (given s (.bus x r)).stream ≠ .reset d :: rest ∧ (given s (.clear 0)).stream ≠ .reset d :: rest
      ∧ (given s (.time 100)).stream ≠ .reset d :: rest ∧ (given s (.transmit 0x41)).stream ≠ .reset d :: rest :=
  ⟨nofun, nofun, nofun, nofun⟩

theorem witness_activeStays :
    ∃ t, (given { rst with active := true } (.clear 0)).active = true
      ∧ step (given { rst with active := true } (.clear 0)) = .next t ∧ t.active = true :=
  ⟨_, rfl, rfl, rfl⟩

theorem witness_onlyRemapActivates :
    ∃ t, (given rst (.bus 0xC0_FF000000_DEADBEEF_FFFFFFFF#104 rst.replies)).active = false
      ∧ step (given rst (.bus 0xC0_FF000000_DEADBEEF_FFFFFFFF#104 rst.replies)) = .next t ∧ t.active = true :=
  ⟨_, rfl, rfl, rfl⟩

/-- TickEnableAccessEnables and TickDisableAccessDisables: both windows, each policy, enabled and not. -/
theorem witness_tick :
    lookup rst.cfg.windows 0xFF000007 = some ⟨0xFF000004, 0xFF000007, .tickOn⟩
      ∧ lookup rst.cfg.windows 0xFF000008 = some ⟨0xFF000008, 0xFF00000B, .tickOff⟩
      ∧ lookup rstR.cfg.windows 0xFF000004 = some ⟨0xFF000004, 0xFF000007, .tickOn⟩
      ∧ rst.cfg.tickPolicy = .freeRunning ∧ rstR.cfg.tickPolicy = .restartOnEnable ∧ rstR.enabled = false := by decide

/-- DuePulseAssertsTheTickLine: due, not due, and a time past the pulse. -/
theorem witness_pulse :
    (given { rst with now := 100 } .pulse).stream = [.pulse]
      ∧ (given { rst with now := 100 } .pulse).nextPulse = some (given { rst with now := 100 } .pulse).now
      ∧ (given { rst with now := 99 } .pulse).nextPulse ≠ some (given { rst with now := 99 } .pulse).now
      ∧ rst.nextPulse = some 100 ∧ 100 < 101 := by decide

/-- ClearLowersOneLine, its second part: the tick line cleared at the time of a pulse, while enabled. -/
theorem witness_clearThenPulse :
    0 = rst.cfg.tickLine ∧ (given { rst with now := 100, enabled := true, irq := [0] } (.clear 0)).enabled = true
      ∧ (given { rst with now := 100, enabled := true, irq := [0] } (.clear 0)).nextPulse = some 100 := by decide

/-- ClearLowersOneLine, BridgeStepsMoveTheirOwnLine and FailedSaveAndTearDownTouchNoBlockState: each step at the head. -/
theorem witness_heads :
    (given rst (.clear 0)).stream = [.clear 0] ∧ (given rst (.bridgeAssert .storage)).stream = [.bridgeAssert .storage]
      ∧ (given rst (.bridgeDeassert (.serial 3))).stream = [.bridgeDeassert (.serial 3)]
      ∧ (given rst (.transmit 0x41)).stream = [.transmit 0x41] ∧ (given rst (.saveFails none)).stream = [.saveFails none]
      ∧ (given rst .tearDown).stream = [.tearDown] ∧ rst.stream = [] := by decide

/-- TimeStopsAtThePendingPulse: up to the pulse at 100, one past it, one before now. -/
theorem witness_time :
    (given { rst with now := 50 } (.time 100)).stream = [.time 100] ∧ (50 ≤ 100 ∧ ∀ p, rst.nextPulse = some p → 100 ≤ p)
      ∧ (∃ p, rst.nextPulse = some p ∧ p < 101) ∧ 49 < (given { rst with now := 50 } (.time 49)).now :=
  ⟨rfl, ⟨by decide, fun p h => by cases h; decide⟩, ⟨100, rfl, by decide⟩, by decide⟩

/-- AdvanceAssertsOncePerPeriod: scenario S3's advance to 300 (`p = 100`, `n = 2`, `r = 0`), and to 399 (`r = 99`). -/
theorem witness_advance :
    (given { rst with enabled := true } (.advance 300)).stream = [.advance (100 + 2 * rst.cfg.tickPeriod + 0)]
      ∧ (given rst (.advance 399)).stream = [.advance (100 + 2 * rst.cfg.tickPeriod + 99)]
      ∧ rst.nextPulse = some 100 ∧ rst.now ≤ 100 ∧ 0 < rst.cfg.tickPeriod ∧ 99 < rst.cfg.tickPeriod := by decide

/-- AdvanceWithNoPulseDueIsTime: before the pulse, and with no pulse scheduled. -/
theorem witness_advanceNoPulse :
    (given rst (.advance 99)).stream = [.advance 99] ∧ rst.now ≤ 99 ∧ (∀ p, rst.nextPulse = some p → 99 < p)
      ∧ ∀ p, rstR.nextPulse = some p → 10000 < p :=
  ⟨rfl, by decide, fun p h => by cases h; decide, fun p h => (nomatch h)⟩

/-- EnabledChangesOnlyThroughItsWindows: set through one window, cleared through the other. -/
theorem witness_enabledChanges :
    (∃ t, step (given rst (.bus 0xC0_FF000004_00000000_FFFFFFFF#104 rst.replies)) = .next t ∧ t.enabled = true)
      ∧ ∃ t, step (given { rst with enabled := true } (.bus 0xC0_FF000008_00000000_FFFFFFFF#104 rst.replies)) = .next t
        ∧ t.enabled = false :=
  ⟨⟨_, rfl, rfl⟩, ⟨_, rfl, rfl⟩⟩

/-- LinesMoveOnlyByTheirOwners: every way a line falls and rises. -/
theorem witness_lines :
    (∃ t, step (given { rst with irq := [0] } (.clear 0)) = .next t ∧ lineLevel t 0 = false)
      ∧ (∃ t, step (given { rst with irq := [5] } (.bridgeDeassert .storage)) = .next t ∧ lineLevel t 5 = false)
      ∧ (∃ t, step (given { rst with irq := [0] } (.reset ⟨0, [], true⟩)) = .next t ∧ lineLevel t 0 = false)
      ∧ (∃ t, step (given rst (.bridgeAssert (.serial 0))) = .next t ∧ lineLevel t 1 = true)
      ∧ ∃ t, step (given { rst with now := 100, enabled := true } .pulse) = .next t ∧ lineLevel t 0 = true :=
  ⟨⟨_, rfl, rfl⟩, ⟨_, rfl, rfl⟩, ⟨_, rfl, rfl⟩, ⟨_, rfl, rfl⟩, ⟨_, rfl, rfl⟩⟩

/-- SerialReadCallsTheBridge and BridgeWritesCallTheBridge: at the last register of serial 3, every lane active. -/
theorem witness_serial :
    lookup rst.cfg.windows 0xFF00005F = some ⟨0xFF000050, 0xFF00005F, .serial 3⟩
      ∧ (∀ k, lane rst.cfg.laneOrder 0xFFFFFFFF k = 0xFF#8)
      ∧ reaches rst.cfg.laneOrder (adapterOf rst.cfg (.serial 3)) ⟨0xFF000050, 0xFF00005F, .serial 3⟩ 0xFF00005F 0xFFFFFFFF 3
        = true := by decide

/-- StorageReadCallsTheBridge, BridgeWritesCallTheBridge and StorageByteWriteReachesOneRegister. -/
theorem witness_storage :
    lookup rst.cfg.windows 0xFF000016 = some ⟨0xFF000010, 0xFF00001F, .storage⟩
      ∧ (∀ k, reaches rst.cfg.laneOrder rst.cfg.adapters.storage ⟨0xFF000010, 0xFF00001F, .storage⟩ 0xFF000016 0x0000FF00 k
          = true → lane rst.cfg.laneOrder 0x0000FF00 k = 0xFF#8)
      ∧ reaches rst.cfg.laneOrder rst.cfg.adapters.storage ⟨0xFF000010, 0xFF00001F, .storage⟩ 0xFF000016 0x0000FF00 2 = true
      ∧ rst.cfg.adapters.storage = ⟨⟨true, true, true, true⟩, .one⟩
      ∧ canonMask rst.cfg.laneOrder 0xFF000016 .w8 = some 0x0000FF00 := by decide

/-- NonGranularBridgeMasksAreRefused: a serial window and the storage window. -/
theorem witness_nonGranular :
    lane rst.cfg.laneOrder 0x0F000000 0 ≠ 0xFF#8
      ∧ reaches rst.cfg.laneOrder (adapterOf rst.cfg (.serial 0)) ⟨0xFF000020, 0xFF00002F, .serial 0⟩ 0xFF000020 0x0F000000 0
        = true
      ∧ lookup rst.cfg.windows 0xFF000020 = some ⟨0xFF000020, 0xFF00002F, .serial 0⟩
      ∧ reaches rst.cfg.laneOrder rst.cfg.adapters.storage ⟨0xFF000010, 0xFF00001F, .storage⟩ 0xFF000010 0x0F000000 0 = true
      ∧ lookup rst.cfg.windows 0xFF000010 = some ⟨0xFF000010, 0xFF00001F, .storage⟩ := by decide

/-- StoreReadsReturnTheStoredBytes, RamWriteMergesActiveLanes, RamdiskWriteMergesActiveLanes, RomWriteIsDiscarded,
RamReadAfterWriteReturnsTheMerge: the last byte of each store, and a ramdisk window whose word is not all its own. -/
theorem witness_stores :
    lookup rst.cfg.windows 0x000FFFFF = some ⟨0x00000008, 0x000FFFFF, .ram⟩
      ∧ lookup rst.cfg.windows 0xFE00FFFF = some ⟨0xFE000000, 0xFE00FFFF, .rom⟩
      ∧ lookup rstU.cfg.windows 0x00100002 = some ⟨0x00100002, 0x00101001, .ramdisk⟩
      ∧ inWindow ⟨0x00100002, 0x00101001, .ramdisk⟩ 0x00100002 1 = false
      ∧ inWindow ⟨0x00100002, 0x00101001, .ramdisk⟩ 0x00100002 2 = true
      ∧ activeLane rst.cfg.laneOrder 0x0000FF00 2 = true ∧ memoryWf rst.ram = true ∧ memoryWf rstU.ramdisk = true := by
  decide

/-- RepeatedWritesAreIdempotent and TransactionsLeaveTheRestAlone: each of the three writes has a next state. -/
theorem witness_repeated :
    memoryWf rst.ram = true ∧ memoryWf rst.ramdisk = true
      ∧ (∃ t, exec (.vecWr .w8 0x00000001 0x00AB0000 0x00FF0000) rst = .next t)
      ∧ (∃ t, exec (.ramWr .w8 0x00000012 0x0000AA00 0x0000FF00) rst = .next t)
      ∧ ∃ t, exec (.ramdiskWr .w32 0x00100000 0xCAFEF00D 0xFFFFFFFF) rst = .next t :=
  ⟨rfl, rfl, ⟨_, rfl⟩, ⟨_, rfl⟩, ⟨_, rfl⟩⟩

/-- CanonicalMaskNamesTheBytesOfTheAccess and ExtractUndoesPlace, at the last lanes a width fits in. -/
theorem witness_place :
    place .big 0x0000AA44 0x00000012 .w16 = some 0x0000AA44 ∧ canonMask .big 0x00000012 .w16 = some 0x0000FFFF
      ∧ place .little 0x000000AA 0x00000013 .w8 = some 0xAA000000 ∧ canonMask .little 0x00000013 .w8 = some 0xFF000000
      ∧ canonMask .big 0x00000011 .w32 = none ∧ place .big 0x00000000 0x00000011 .w32 = none
      ∧ extract .little 0x00000000 0x00000013 .w16 = none := by decide

/-- SplitPartsCoverTheAccess: one part at the last lanes a width fits in, and two, up to the last word that has a word
above it. -/
theorem witness_split :
    (∃ ps, cpuParts .big .w16 0x00001122 0x00000012 = some ps
        ∧ (0x00000012 : Word).toNat % 4 + widthBytes .w16 ≤ 4 ∧ ps.length = 1)
      ∧ (∃ ps, cpuParts .big .w16 0x00001122 0xFFFFFFFB = some ps
        ∧ 4 < (0xFFFFFFFB : Word).toNat % 4 + widthBytes .w16 ∧ ps.length = 2) :=
  ⟨⟨_, rfl, by decide, rfl⟩, ⟨_, rfl, by decide, rfl⟩⟩

/-- ResetGivesTheResetValues and VectorWindowReadsConstantsAfterReset: a blob that loads, one of the wrong length,
none, and one that does not read. -/
theorem witness_reset :
    rst.cfg.wf = true ∧ (given rst (.reset ⟨0x5, [(8, 0x77)], false⟩)).stream = [.reset ⟨0x5, [(8, 0x77)], false⟩]
      ∧ memoryWf [(8, 0x77)] = true ∧ memoryWithin rst.cfg.ramSize [(8, 0x77)] = true
      ∧ (∀ b, rst.blob = some b → memoryWf b.bytes = true ∧ memoryWithin b.length b.bytes = true)
      ∧ (∀ b, { rst with blob := some ⟨0x10000, [(0, 0xCA)]⟩ }.blob = some b →
        memoryWf b.bytes = true ∧ memoryWithin b.length b.bytes = true ∧ b.length = rst.cfg.ramdiskSize)
      ∧ ∀ b, { rst with blob := some ⟨0xFFFF, [(0, 0xCA)]⟩ }.blob = some b →
        memoryWf b.bytes = true ∧ memoryWithin b.length b.bytes = true ∧ b.length ≠ rst.cfg.ramdiskSize :=
  ⟨by decide, rfl, by decide, by decide, fun b h => (nomatch h),
    fun b h => (by cases h; exact ⟨by decide, by decide, by decide⟩),
    fun b h => (by cases h; exact ⟨by decide, by decide, by decide⟩)⟩

theorem witness_savedRamdisk :
    { rst with ramdisk := [(0, 0xCA)], stream := [.saveRamdisk, .reset ⟨0x0, [], true⟩] }.stream
        = [.saveRamdisk, .reset ⟨0x0, [], true⟩]
      ∧ memoryWf [(0, 0xCA)] = true ∧ memoryWithin rst.cfg.ramdiskSize [(0, 0xCA)] = true := by decide

/-- WidthAndReadDataHaveNoEffect: a read that differs in width and data, a write that differs in width. -/
theorem witness_width :
    decode rst.cfg.windows 0x40_00000010_00000000_FFFFFFFF#104 = .ok (.ramRd .w32 0x00000010 0xFFFFFFFF)
      ∧ decode rst.cfg.windows 0x20_00000010_12345678_FFFFFFFF#104 = .ok (.ramRd .w16 0x00000010 0xFFFFFFFF)
      ∧ decode rst.cfg.windows 0xC0_00000010_11223344_0000FFFF#104 = .ok (.ramWr .w32 0x00000010 0x11223344 0x0000FFFF)
      ∧ decode rst.cfg.windows 0x80_00000010_11223344_0000FFFF#104 = .ok (.ramWr .w8 0x00000010 0x11223344 0x0000FFFF) := by
  decide

theorem witness_width_fields :
    (headerField 0x40_00000010_00000000_FFFFFFFF#104).getLsbD 7 = false
      ∧ (headerField 0x20_00000010_12345678_FFFFFFFF#104).getLsbD 7 = false
      ∧ addressField 0x40_00000010_00000000_FFFFFFFF#104 = addressField 0x20_00000010_12345678_FFFFFFFF#104
      ∧ maskField 0x40_00000010_00000000_FFFFFFFF#104 = maskField 0x20_00000010_12345678_FFFFFFFF#104
      ∧ (headerField 0xC0_00000010_11223344_0000FFFF#104).getLsbD 7 = true
      ∧ (headerField 0x80_00000010_11223344_0000FFFF#104).getLsbD 7 = true
      ∧ dataField 0xC0_00000010_11223344_0000FFFF#104 = dataField 0x80_00000010_11223344_0000FFFF#104 := by decide

/-- StoresChangeOnlyThroughTheirWindow, NoStepChangesTheParameters and TimeAndEventsOnlyGrow: a step of each that
changes. -/
theorem witness_storesChange :
    (∃ t, step (given rst (.bus 0xC0_00000010_11223344_FFFFFFFF#104 rst.replies)) = .next t ∧ t.ram ≠ rst.ram)
      ∧ (∃ t, step (given rst (.bus 0xC0_00100000_CAFEF00D_FFFFFFFF#104 rst.replies)) = .next t ∧ t.ramdisk ≠ rst.ramdisk)
      ∧ ∃ t, step (given rst (.bus 0xC0_00000004_00000400_FFFFFFFF#104 rst.replies)) = .next t ∧ t.ovr1 ≠ rst.ovr1 :=
  ⟨⟨_, rfl, by decide⟩, ⟨_, rfl, by decide⟩, ⟨_, rfl, by decide⟩⟩

theorem witness_timeAndEvents :
    (∃ t, step (given rst (.time 100)) = .next t ∧ t.now = 100)
      ∧ ∃ t, step (given rst (.transmit 0x41)) = .next t ∧ t.events = rst.events ++ [.transmit (.serial 0) 0x41] :=
  ⟨⟨_, rfl, rfl⟩, ⟨_, rfl, rfl⟩⟩

/-- RefusedMarkStays: a marked state that steps, through RESET; an unmarked one that becomes marked. -/
theorem witness_refused :
    (∃ t, step (given { rst with refused := true } (.reset ⟨0x0, [], true⟩)) = .next t ∧ t.refused = true)
      ∧ ∃ t, step (given rst (.bus 0x80_FF000010_FF000000_0F000000#104 rst.replies)) = .next t ∧ t.refused = true :=
  ⟨⟨_, rfl, rfl⟩, ⟨_, rfl, rfl⟩⟩

/-- EveryStepKeepsTheInvariant: a state that meets it and steps, under each policy. -/
theorem witness_invariant :
    (given rst (.bus 0xC0_00000010_11223344_FFFFFFFF#104 rst.replies)).Inv ∧ (given rstR (.advance 10)).Inv := by decide

theorem witness_invariant_steps :
    (∃ t, step (given rst (.bus 0xC0_00000010_11223344_FFFFFFFF#104 rst.replies)) = .next t)
      ∧ ∃ t, step (given rstR (.advance 10)) = .next t :=
  ⟨⟨_, rfl⟩, ⟨_, rfl⟩⟩

/-- BridgeLanesAndRegistersFollowTheAdapter: the lane that reaches under each stride, at the last register of the
window, and a lane outside the set. -/
theorem witness_adapter :
    reaches .big (adapterOf rst.cfg .storage) ⟨0xFF000010, 0xFF00001F, .storage⟩ 0xFF00001F 0xFFFFFFFF 3 = true
      ∧ (adapterOf rst.cfg .storage).stride = .one
      ∧ reaches .big (adapterOf rstA.cfg .storage) ⟨0xFF000010, 0xFF00001F, .storage⟩ 0xFF00001F 0xFFFFFFFF 3 = true
      ∧ (adapterOf rstA.cfg .storage).stride = .four
      ∧ reaches .big (adapterOf rstA.cfg .storage) ⟨0xFF000010, 0xFF00001F, .storage⟩ 0xFF00001F 0xFFFFFFFF 2 = false := by
  decide

end Sys2Proof.Tests
end

/-! What decodes is a transaction of its table (30_encoding.md R57, R58, R61). -/

namespace Sys2Proof

open Machine

/-- What decodes, exactly: no reserved bit, a width that is not reserved, and the operation of the direction and of
the window of the address. -/
theorem decode_eq_ok_iff {tbl : List Window} {x : Encoded} {i : Instr} :
    decode tbl x = .ok i ↔ (headerField x).extractLsb' 0 5 = 0
      ∧ ∃ w, widthOfBits ((headerField x).extractLsb' 5 2) = some w
        ∧ i = if (headerField x).getLsbD 7 then
            writeOp (kindAt tbl (addressField x)) w (addressField x) (dataField x) (maskField x)
          else readOp (kindAt tbl (addressField x)) w (addressField x) (maskField x) := by
  dsimp only [decode]
  by_cases hr : (headerField x).extractLsb' 0 5 = 0
  · rw [if_neg (not_not.2 hr)]
    cases hw : widthOfBits ((headerField x).extractLsb' 5 2) with
    | none => simp
    | some w => cases hd : (headerField x).getLsbD 7 <;> simp [hr, eq_comm]
  · simp only [ne_eq, hr, not_false_eq_true, if_true, false_and, reduceCtorEq]

@[simp] theorem addr_readOp (k : Option Kind) (w : Width) (a m : Word) : (readOp k w a m).addr = a := by
  rcases k with _ | k
  · rfl
  · cases k <;> rfl

@[simp] theorem addr_writeOp (k : Option Kind) (w : Width) (a d m : Word) : (writeOp k w a d m).addr = a := by
  rcases k with _ | k
  · rfl
  · cases k <;> rfl

@[simp] theorem fitsKind_readOp (k : Option Kind) (w : Width) (a m : Word) : (readOp k w a m).fitsKind k = true := by
  rcases k with _ | k
  · rfl
  · cases k <;> rfl

@[simp] theorem fitsKind_writeOp (k : Option Kind) (w : Width) (a d m : Word) :
    (writeOp k w a d m).fitsKind k = true := by
  rcases k with _ | k
  · rfl
  · cases k <;> rfl

/-- The decoder never makes a misrouted term (notes/assumptions/12.md). -/
theorem wf_of_decode {tbl : List Window} {x : Encoded} {i : Instr} (h : decode tbl x = .ok i) : i.wf tbl = true := by
  obtain ⟨-, w, -, rfl⟩ := decode_eq_ok_iff.1 h
  split <;> simp [Instr.wf]

end Sys2Proof

/-! What a transaction of the table comes to: it goes on, or a bridge refuses its mask. -/

namespace Sys2Proof.Machine

/-- The outcomes of `exec` that `settle` makes a next state of (43_bridges.md R89, notes/assumptions/7.md). -/
def GoesOn (r : Result) : Prop :=
  (∃ t, r = .next t) ∨ r = .refused .nonGranularBridgeMask

theorem goesOn_next (t : State) : GoesOn (.next t) :=
  .inl ⟨t, rfl⟩

theorem goesOn_bridgeRead (b : Bridge) (w : Window) (a m : Word) (s : State) : GoesOn (bridgeRead b w a m s) := by
  rcases bridgeRead_cases b w a m s with ⟨hr, -⟩ | ⟨l, v, hr, -⟩
  · exact .inr hr
  · exact .inl ⟨_, hr⟩

theorem goesOn_bridgeWrite (b : Bridge) (w : Window) (a d m : Word) (s : State) :
    GoesOn (bridgeWrite b w a d m s) := by
  rcases bridgeWrite_cases b w a d m s with ⟨hr, -⟩ | ⟨l, hr, -⟩
  · exact .inr hr
  · exact .inl ⟨_, hr⟩

theorem goesOn_atKind {k : Kind} {a : Word} {s : State} {f : Window → Result}
    (h : kindAt s.cfg.windows a = some k) (hf : ∀ w, GoesOn (f w)) : GoesOn (atKind k a s f) := by
  obtain ⟨w, hl, hk⟩ := kindAt_eq_some.1 h
  rw [atKind_of_lookup hl hk]
  exact hf w

theorem goesOn_atSerial {a : Word} {s : State} {f : Fin 4 → Window → Result}
    (h : isSerialKind (kindAt s.cfg.windows a) = true) (hf : ∀ b w, GoesOn (f b w)) : GoesOn (atSerial a s f) := by
  obtain ⟨b, hb⟩ := (isSerialKind_iff _).1 h
  obtain ⟨w, hl, hk⟩ := kindAt_eq_some.1 hb
  rw [atSerial_of_lookup hl hk]
  exact hf b w

theorem atUnmapped_of_kindAt {a : Word} {s : State} {r : Result} (h : kindAt s.cfg.windows a = none) :
    atUnmapped a s r = r := by
  have hl : lookup s.cfg.windows a = none := by simpa [kindAt] using h
  simp [atUnmapped, hl]

theorem goesOn_atUnmapped {a : Word} {s t : State} (h : kindAt s.cfg.windows a = none) :
    GoesOn (atUnmapped a s (.next t)) := by
  rw [atUnmapped_of_kindAt h]
  exact goesOn_next t

/-- A term that is a transaction under the state's table is never misrouted (30_encoding.md R58). -/
theorem exec_goesOn {i : Instr} {s : State} (h : i.wf s.cfg.windows = true) : GoesOn (exec i s) := by
  cases i with
  | unmappedRd | unmappedWr => exact goesOn_atUnmapped (of_decide_eq_true h)
  | serialRd => exact goesOn_atSerial h fun _ _ => goesOn_bridgeRead ..
  | serialWr => exact goesOn_atSerial h fun _ _ => goesOn_bridgeWrite ..
  | storageRd => exact goesOn_atKind (of_decide_eq_true h) fun _ => goesOn_bridgeRead ..
  | storageWr => exact goesOn_atKind (of_decide_eq_true h) fun _ => goesOn_bridgeWrite ..
  | vecRd | vecWr | remapRd | remapWr | tickonRd | tickonWr | tickoffRd | tickoffWr | ramRd | ramWr | romRd | romWr
  | ramdiskRd | ramdiskWr => exact goesOn_atKind (of_decide_eq_true h) fun _ => goesOn_next _

/-! What a bus step makes of the outcome. -/

@[simp] theorem settle_next (s t : State) : settle s (.next t) = .next t := rfl

@[simp] theorem settle_nonGranular (s : State) :
    settle s (.refused .nonGranularBridgeMask) = .next s.markRefused := rfl

theorem stepBus_of_decode_ok {x : Encoded} {r : Replies} {s : State} {i : Instr}
    (h : decode s.cfg.windows x = .ok i) : stepBus x r s = settle s (exec i (s.setReplies r)) := by
  simp [stepBus, h]

theorem stepBus_of_decode_error {x : Encoded} {r : Replies} {s : State} {e : DecodeError}
    (h : decode s.cfg.windows x = .error e) : stepBus x r s = .next s.markRefused := by
  simp [stepBus, h]

/-- A bus step always has a next state: bits that decode are a transaction of the table, so `exec` goes on, or a
bridge refuses its mask and the step leaves the mark alone. -/
theorem stepBus_total (x : Encoded) (r : Replies) (s : State) :
    ∃ t, stepBus x r s = .next t
      ∧ ((∃ i, decode s.cfg.windows x = .ok i ∧ exec i (s.setReplies r) = .next t)
        ∨ (t = s.markRefused
          ∧ ((∃ e, decode s.cfg.windows x = .error e)
            ∨ ∃ i, decode s.cfg.windows x = .ok i
              ∧ exec i (s.setReplies r) = .refused .nonGranularBridgeMask))) := by
  cases hd : decode s.cfg.windows x with
  | error e => exact ⟨_, stepBus_of_decode_error hd, .inr ⟨rfl, .inl ⟨e, rfl⟩⟩⟩
  | ok i =>
    have hstep := stepBus_of_decode_ok (r := r) hd
    rcases exec_goesOn (s := s.setReplies r) (wf_of_decode hd) with ⟨t, ht⟩ | hrefused
    · exact ⟨t, by rw [hstep, ht, settle_next], .inl ⟨i, rfl, ht⟩⟩
    · exact ⟨_, by rw [hstep, hrefused, settle_nonGranular], .inr ⟨rfl, .inr ⟨i, rfl, hrefused⟩⟩⟩

/-- Settles O8: the step is the bus step in the state without it, and that has a next state. -/
theorem everyTransactionHasAStep : Obligations.EveryTransactionHasAStep := by
  intro s x r rest hs
  rw [step_cons hs]
  exact stepBus_total x r (s.setStream rest)

/-! What no transaction changes. -/

/-- Settles O47: none of the changes a transaction can make, `exec_cases`, writes one of these fields. -/
theorem transactionsLeaveTheRestAlone : Obligations.TransactionsLeaveTheRestAlone := by
  intro i s t h
  rcases exec_cases h with
    ⟨_, rfl⟩ | ⟨_, _, _, _, _, _, -, rfl⟩ | ⟨-, _, rfl⟩ | ⟨-, _, rfl⟩ | ⟨-, _, rfl⟩ | ⟨_, _, rfl⟩
    | ⟨_, _, _, _, _, -, -, -, rfl⟩ | ⟨_, _, _, _, _, -, -, -, rfl⟩
  case inr.inr.inr.inl => simp [tickEnable_eq]
  case inr.inr.inr.inr.inl => simp [tickDisable_eq]
  all_goals simp

/-! Where the mark of a refused run comes from. -/

theorem exec_refused {i : Instr} {s t : State} (h : exec i s = .next t) : t.refused = s.refused := by
  obtain ⟨-, -, -, -, -, hm, -⟩ := transactionsLeaveTheRestAlone i s t h
  exact hm

theorem stepBus_refused {x : Encoded} {r : Replies} {s t : State} (h : stepBus x r s = .next t) :
    t.refused = s.refused ∨ t = s.markRefused := by
  rcases stepBus_cases h with ⟨i, -, hi⟩ | hm
  · exact .inl ((exec_refused hi).trans (setReplies_refused s r))
  · exact .inr hm

/-- An agent's step leaves the mark as it is, or it is a transaction and sets the mark alone (00_scope.md R9). -/
theorem agentStep_refused {g : AgentStep} {s t : State} (h : agentStep g s = .next t) :
    t.refused = s.refused ∨ ((∃ x r, g = .bus x r) ∧ t = s.markRefused) := by
  cases g with
  | bus x r => exact (stepBus_refused h).imp_right fun hm => ⟨⟨x, r, rfl⟩, hm⟩
  | pulse =>
    obtain ⟨-, rfl⟩ := stepPulse_cases h
    exact .inl (by rw [pulseEffect_eq])
  | time n =>
    obtain ⟨-, -, rfl⟩ := stepTime_cases h
    exact .inl rfl
  | clear | bridgeAssert | bridgeDeassert | transmit | advance | reset | saveRamdisk | saveFails | tearDown =>
    cases h
    exact .inl rfl

/-- Settles O52: by what one agent's step does to the mark. -/
theorem refusedMarkStays : Obligations.RefusedMarkStays := by
  intro s t h
  cases hs : s.stream with
  | nil =>
    cases (step_nil hs).symm.trans h
    exact ⟨id, fun hu hm => absurd hm (by simp [hu])⟩
  | cons g rest =>
    rw [step_cons hs] at h
    rcases agentStep_refused h with hsame | ⟨⟨x, r, rfl⟩, rfl⟩
    · rw [setStream_refused] at hsame
      exact ⟨hsame.trans, fun hu hm => absurd (hsame.symm.trans hm) (by simp [hu])⟩
    · exact ⟨fun _ => rfl, fun _ _ => ⟨x, r, rest, rfl, rfl⟩⟩

end Sys2Proof.Machine

/-! What a step can do to the parameters, the override words, the flags and the stores: nothing, unless it is a
transaction or RESET (10_state.md R14 to R16, R21, R22). -/

namespace Sys2Proof.Machine

/-- The parameters and the fields of the state a transaction is answered from. -/
structure Block where
  cfg     : Config
  ovr0    : Word
  ovr1    : Word
  active  : Bool
  enabled : Bool
  ram     : Memory
  rom     : Memory
  ramdisk : Memory

/-- The block's own part of the state: `t.block = s.block` says that each of its fields is unchanged. -/
def State.block (s : State) : Block :=
  ⟨s.cfg, s.ovr0, s.ovr1, s.active, s.enabled, s.ram, s.rom, s.ramdisk⟩

theorem block_eq_iff {s t : State} :
    t.block = s.block ↔ t.cfg = s.cfg ∧ t.ovr0 = s.ovr0 ∧ t.ovr1 = s.ovr1 ∧ t.active = s.active
      ∧ t.enabled = s.enabled ∧ t.ram = s.ram ∧ t.rom = s.rom ∧ t.ramdisk = s.ramdisk := by
  simp [State.block]

/-- A step is nothing at the end of the stream, else the step of the agent at its head (10_state.md R18). -/
theorem step_next {s t : State} (h : step s = .next t) :
    (s.stream = [] ∧ t = s) ∨ ∃ g rest, s.stream = g :: rest ∧ agentStep g (s.setStream rest) = .next t := by
  cases hs : s.stream with
  | nil =>
    cases (step_nil hs).symm.trans h
    exact .inl ⟨rfl, rfl⟩
  | cons g rest => exact .inr ⟨g, rest, rfl, (step_cons hs).symm.trans h⟩

/-- What an agent's step is to the block's own state: RESET, a transaction, or nothing. -/
theorem agentStep_cases {g : AgentStep} {s t : State} (h : agentStep g s = .next t) :
    (∃ d, g = .reset d ∧ t = resetState d s)
    ∨ (∃ x r i, g = .bus x r ∧ decode s.cfg.windows x = .ok i ∧ exec i (s.setReplies r) = .next t)
    ∨ t.block = s.block := by
  cases g with
  | reset d =>
    cases h
    exact .inl ⟨d, rfl, rfl⟩
  | bus x r =>
    rcases stepBus_cases h with ⟨i, hi, hx⟩ | rfl
    · exact .inr (.inl ⟨x, r, i, rfl, hi, hx⟩)
    · exact .inr (.inr rfl)
  | pulse =>
    obtain ⟨-, rfl⟩ := stepPulse_cases h
    rw [pulseEffect_eq]
    exact .inr (.inr rfl)
  | time n =>
    obtain ⟨-, -, rfl⟩ := stepTime_cases h
    exact .inr (.inr rfl)
  | clear | bridgeAssert | bridgeDeassert | transmit | advance | saveRamdisk | saveFails | tearDown =>
    cases h
    exact .inr (.inr rfl)

/-- What a step of the machine is to the block's own state: RESET, a transaction, or nothing. -/
theorem step_cases {s t : State} (h : step s = .next t) :
    (∃ d rest, s.stream = .reset d :: rest ∧ t = resetState d (s.setStream rest))
    ∨ (∃ x r rest i, s.stream = .bus x r :: rest ∧ decode s.cfg.windows x = .ok i
        ∧ exec i ((s.setStream rest).setReplies r) = .next t)
    ∨ t.block = s.block := by
  rcases step_next h with ⟨-, rfl⟩ | ⟨g, rest, hs, hg⟩
  · exact .inr (.inr rfl)
  · rcases agentStep_cases hg with ⟨d, rfl, ht⟩ | ⟨x, r, i, rfl, hi, hx⟩ | hsame
    · exact .inl ⟨d, rest, hs, ht⟩
    · exact .inr (.inl ⟨x, r, rest, i, hs, hi, hx⟩)
    · exact .inr (.inr hsame)

/-- A step that is no RESET is a transaction, or leaves the block's own state alone. -/
theorem step_cases_of_noReset {s t : State} (hr : ∀ d rest, s.stream ≠ .reset d :: rest) (h : step s = .next t) :
    (∃ x r rest i, s.stream = .bus x r :: rest ∧ decode s.cfg.windows x = .ok i
        ∧ exec i ((s.setStream rest).setReplies r) = .next t)
    ∨ t.block = s.block :=
  (step_cases h).resolve_left fun ⟨d, rest, hs, _⟩ => hr d rest hs

/-- Each flag, each store and the override words change only through the operation that owns them (10_state.md R14 to
R16, R22). -/
structure OwnersOnly (i : Instr) (s t : State) : Prop where
  active  : t.active = s.active
    ∨ (((∃ w a m, i = .remapRd w a m) ∨ ∃ w a d m, i = .remapWr w a d m) ∧ t.active = true)
  enabled : t.enabled = s.enabled ∨ (t.enabled = true ∧ kindAt s.cfg.windows i.addr = some .tickOn)
    ∨ (t.enabled = false ∧ kindAt s.cfg.windows i.addr = some .tickOff)
  ovr     : (t.ovr0 = s.ovr0 ∧ t.ovr1 = s.ovr1) ∨ ∃ w a d m, i = .vecWr w a d m
  ram     : t.ram = s.ram ∨ ∃ w a d m, i = .ramWr w a d m
  ramdisk : t.ramdisk = s.ramdisk ∨ ∃ w a d m, i = .ramdiskWr w a d m

/-- A transaction changes only what it owns. -/
theorem exec_ownersOnly {i : Instr} {s t : State} (h : exec i s = .next t) : OwnersOnly i s t := by
  rcases exec_cases h with
    ⟨_, rfl⟩ | ⟨w, a, d, m, _, _, hvec, rfl⟩ | ⟨hremap, _, rfl⟩ | ⟨hon, _, rfl⟩ | ⟨hoff, _, rfl⟩ | ⟨_, _, rfl⟩
    | ⟨w, a, d, m, _, hram, -, -, rfl⟩ | ⟨w, a, d, m, _, hdisk, -, -, rfl⟩
  · exact ⟨.inl rfl, .inl rfl, .inl ⟨rfl, rfl⟩, .inl rfl, .inl rfl⟩
  · exact ⟨.inl rfl, .inl rfl, .inr ⟨w, a, d, m, hvec⟩, .inl rfl, .inl rfl⟩
  · exact ⟨.inr ⟨hremap, rfl⟩, .inl rfl, .inl ⟨rfl, rfl⟩, .inl rfl, .inl rfl⟩
  · rw [tickEnable_eq]
    exact ⟨.inl rfl, .inr (.inl ⟨rfl, hon⟩), .inl ⟨rfl, rfl⟩, .inl rfl, .inl rfl⟩
  · rw [tickDisable_eq]
    exact ⟨.inl rfl, .inr (.inr ⟨rfl, hoff⟩), .inl ⟨rfl, rfl⟩, .inl rfl, .inl rfl⟩
  · exact ⟨.inl rfl, .inl rfl, .inl ⟨rfl, rfl⟩, .inl rfl, .inl rfl⟩
  · exact ⟨.inl rfl, .inl rfl, .inl ⟨rfl, rfl⟩, .inr ⟨w, a, d, m, hram⟩, .inl rfl⟩
  · exact ⟨.inl rfl, .inl rfl, .inl ⟨rfl, rfl⟩, .inl rfl, .inr ⟨w, a, d, m, hdisk⟩⟩

/-- Settles O15: a transaction leaves `active` as it is or raises it, and no other step but RESET writes it. -/
theorem activeStaysUntilReset : Obligations.ActiveStaysUntilReset := by
  intro s t ha hr h
  rcases step_cases_of_noReset hr h with ⟨x, r, rest, i, -, -, hx⟩ | hsame
  · rcases (exec_ownersOnly hx).active with hkeep | ⟨-, hraised⟩
    · exact hkeep.trans ha
    · exact hraised
  · exact (congrArg Block.active hsame).trans ha

/-- Settles O16: RESET lowers `active`, and of the transactions only a REMAP access writes it. -/
theorem onlyRemapAccessesActivate : Obligations.OnlyRemapAccessesActivate := by
  intro s t ha h ht
  have changed : t.active ≠ s.active := by simp [ha, ht]
  rcases step_cases h with ⟨d, rest, -, rfl⟩ | ⟨x, r, rest, i, hs, hi, hx⟩ | hsame
  · cases ht
  · exact ⟨x, r, rest, i, hs, hi, ((exec_ownersOnly hx).active.resolve_left changed).1⟩
  · exact absurd (congrArg Block.active hsame) changed

/-- Settles O25: of the transactions only those of the two tick windows write `enabled`, each its own value. -/
theorem enabledChangesOnlyThroughItsWindows : Obligations.EnabledChangesOnlyThroughItsWindows := by
  intro s t hr h changed
  rcases step_cases_of_noReset hr h with ⟨x, r, rest, i, hs, hi, hx⟩ | hsame
  · exact ⟨x, r, rest, i, hs, hi, (exec_ownersOnly hx).enabled.resolve_left changed⟩
  · exact absurd (congrArg Block.enabled hsame) changed

/-- Settles O49: a transaction that changes a store or an override word is the write that owns it. -/
theorem storesChangeOnlyThroughTheirWindow : Obligations.StoresChangeOnlyThroughTheirWindow := by
  intro s t hr h
  rcases step_cases_of_noReset hr h with ⟨x, r, rest, i, hs, hi, hx⟩ | hsame
  · have owners := exec_ownersOnly hx
    obtain ⟨-, -, hrom, -⟩ := transactionsLeaveTheRestAlone _ _ _ hx
    refine ⟨hrom, fun changed => ?_, fun changed => ?_, fun changed => ?_⟩
    · obtain ⟨w, a, d, m, rfl⟩ := owners.ram.resolve_left changed
      exact ⟨x, r, rest, w, a, d, m, hs, hi⟩
    · obtain ⟨w, a, d, m, rfl⟩ := owners.ramdisk.resolve_left changed
      exact ⟨x, r, rest, w, a, d, m, hs, hi⟩
    · obtain ⟨w, a, d, m, rfl⟩ := owners.ovr.resolve_left fun kept => changed.elim (· kept.1) (· kept.2)
      exact ⟨x, r, rest, w, a, d, m, hs, hi⟩
  · obtain ⟨-, hovr0, hovr1, -, -, hram, hrom, hramdisk⟩ := block_eq_iff.1 hsame
    exact ⟨hrom, fun changed => absurd hram changed, fun changed => absurd hramdisk changed,
      fun changed => (changed.elim (· hovr0) (· hovr1)).elim⟩

/-- Settles O50: RESET and the transactions keep the parameters, and no other step writes them. -/
theorem noStepChangesTheParameters : Obligations.NoStepChangesTheParameters := by
  intro s t h
  rcases step_cases h with ⟨d, rest, -, rfl⟩ | ⟨x, r, rest, i, -, -, hx⟩ | hsame
  · rfl
  · exact (transactionsLeaveTheRestAlone _ _ _ hx).1
  · exact congrArg Block.cfg hsame

/-! Which steps move the interrupt lines (10_state.md R23). -/

/-- A bus step, refused or not, moves no line and takes no time, and no event is queued. -/
theorem stepBus_frame {x : Encoded} {r : Replies} {s t : State} (h : stepBus x r s = .next t) :
    t.now = s.now ∧ t.irq = s.irq ∧ t.events = s.events := by
  rcases stepBus_cases h with ⟨i, -, hx⟩ | rfl
  · obtain ⟨-, hnow, -, hirq, hevents, -⟩ := transactionsLeaveTheRestAlone _ _ _ hx
    exact ⟨hnow, hirq, hevents⟩
  · exact ⟨rfl, rfl, rfl⟩

/-- The lines after an agent's step: one lowered, one raised, all lowered, or as they were. -/
theorem agentStep_irq {g : AgentStep} {s t : State} (h : agentStep g s = .next t) :
    t.irq = s.irq
    ∨ (∃ l, g = .clear l ∧ t.irq = lowerIn s.irq l)
    ∨ (∃ b, g = .bridgeDeassert b ∧ t.irq = lowerIn s.irq (bridgeLine s.cfg b))
    ∨ (∃ d, g = .reset d ∧ t.irq = [])
    ∨ (∃ b, g = .bridgeAssert b ∧ t.irq = raiseIn s.irq (bridgeLine s.cfg b))
    ∨ (g = .pulse ∧ s.enabled = true ∧ s.nextPulse = some s.now ∧ t.irq = raiseIn s.irq s.cfg.tickLine) := by
  cases g with
  | bus x r =>
    obtain ⟨-, hirq, -⟩ := stepBus_frame h
    exact .inl hirq
  | clear l => cases h; exact .inr (.inl ⟨l, rfl, rfl⟩)
  | bridgeDeassert b => cases h; exact .inr (.inr (.inl ⟨b, rfl, rfl⟩))
  | reset d => cases h; exact .inr (.inr (.inr (.inl ⟨d, rfl, rfl⟩)))
  | bridgeAssert b => cases h; exact .inr (.inr (.inr (.inr (.inl ⟨b, rfl, rfl⟩))))
  | pulse =>
    obtain ⟨hdue, rfl⟩ := stepPulse_cases h
    rw [pulseEffect_eq]
    by_cases he : s.enabled = true
    · exact .inr (.inr (.inr (.inr (.inr ⟨rfl, he, hdue, if_pos he⟩))))
    · exact .inl (if_neg he)
  | time n =>
    obtain ⟨-, -, rfl⟩ := stepTime_cases h
    exact .inl rfl
  | transmit | advance | saveRamdisk | saveFails | tearDown => cases h; exact .inl rfl

theorem lineLevel_eq_false_iff {s : State} {l : Nat} : lineLevel s l = false ↔ l ∉ s.irq := by
  simp [lineLevel]

/-- Only CLEAR, the line's bridge and RESET lower a line. -/
theorem agentStep_lowers {g : AgentStep} {s t : State} {l : Nat} (h : agentStep g s = .next t) (hs : l ∈ s.irq)
    (ht : l ∉ t.irq) :
    g = .clear l ∨ (∃ b, g = .bridgeDeassert b ∧ bridgeLine s.cfg b = l) ∨ ∃ d, g = .reset d := by
  have lowered : ∀ {j}, t.irq = lowerIn s.irq j → j = l := by
    intro j hj
    by_contra hne
    exact ht (hj ▸ mem_lowerIn.2 ⟨hs, Ne.symm hne⟩)
  have not_raised : ∀ j, t.irq ≠ raiseIn s.irq j := fun j hj => ht (hj ▸ mem_raiseIn.2 (.inl hs))
  rcases agentStep_irq h with hsame | ⟨j, rfl, hj⟩ | ⟨b, rfl, hj⟩ | ⟨d, rfl, -⟩ | ⟨b, -, hj⟩ | ⟨-, -, -, hj⟩
  · exact absurd (hsame ▸ hs) ht
  · exact .inl (congrArg _ (lowered hj))
  · exact .inr (.inl ⟨b, rfl, lowered hj⟩)
  · exact .inr (.inr ⟨d, rfl⟩)
  · exact absurd hj (not_raised _)
  · exact absurd hj (not_raised _)

/-- Only the line's bridge raises a line, and a due pulse while `enabled` the tick line. -/
theorem agentStep_raises {g : AgentStep} {s t : State} {l : Nat} (h : agentStep g s = .next t) (hs : l ∉ s.irq)
    (ht : l ∈ t.irq) :
    (∃ b, g = .bridgeAssert b ∧ bridgeLine s.cfg b = l)
    ∨ (g = .pulse ∧ s.enabled = true ∧ l = s.cfg.tickLine ∧ s.nextPulse = some s.now) := by
  have raised : ∀ {j}, t.irq = raiseIn s.irq j → l = j := fun hj => (mem_raiseIn.1 (hj ▸ ht)).resolve_left hs
  have not_lowered : ∀ j, t.irq ≠ lowerIn s.irq j := fun j hj => hs (mem_lowerIn.1 (hj ▸ ht)).1
  rcases agentStep_irq h with hsame | ⟨j, -, hj⟩ | ⟨b, -, hj⟩ | ⟨d, -, hj⟩ | ⟨b, rfl, hj⟩ | ⟨rfl, he, hdue, hj⟩
  · exact absurd (hsame ▸ ht) hs
  · exact absurd hj (not_lowered _)
  · exact absurd hj (not_lowered _)
  · simp [hj] at ht
  · exact .inl ⟨b, rfl, (raised hj).symm⟩
  · exact .inr ⟨rfl, he, raised hj, hdue⟩

/-- Settles O26: by which agents' steps lower a line and which raise one. -/
theorem linesMoveOnlyByTheirOwners : Obligations.LinesMoveOnlyByTheirOwners := by
  intro s t l h
  rw [lineLevel_iff, lineLevel_iff, lineLevel_eq_false_iff, lineLevel_eq_false_iff]
  rcases step_next h with ⟨-, rfl⟩ | ⟨g, rest, hs, hg⟩
  · exact ⟨fun hm hn => absurd hm hn, fun hn hm => absurd hm hn⟩
  · refine ⟨fun hm hn => ?_, fun hn hm => ?_⟩
    · rcases agentStep_lowers hg hm hn with rfl | ⟨b, rfl, hb⟩ | ⟨d, rfl⟩
      · exact .inl ⟨rest, hs⟩
      · exact .inr (.inl ⟨b, rest, hs, hb⟩)
      · exact .inr (.inr ⟨d, rest, hs⟩)
    · rcases agentStep_raises hg hn hm with ⟨b, rfl, hb⟩ | ⟨rfl, he, hl, hdue⟩
      · exact .inl ⟨b, rest, hs, hb⟩
      · exact .inr ⟨rest, hs, he, hl, hdue⟩

/-! Time and the event queue (10_state.md R24, R26). -/

/-- Only TIME moves the clock, and forward, but for RESET. -/
theorem agentStep_now {g : AgentStep} {s t : State} (hr : ∀ d, g ≠ .reset d) (h : agentStep g s = .next t) :
    t.now = s.now ∨ (g = .time t.now ∧ s.now ≤ t.now) := by
  cases g with
  | reset d => exact absurd rfl (hr d)
  | bus x r =>
    obtain ⟨hnow, -, -⟩ := stepBus_frame h
    exact .inl hnow
  | pulse =>
    obtain ⟨-, rfl⟩ := stepPulse_cases h
    exact .inl (by rw [pulseEffect_eq])
  | time n =>
    obtain ⟨hle, -, rfl⟩ := stepTime_cases h
    exact .inr ⟨rfl, hle⟩
  | clear | bridgeAssert | bridgeDeassert | transmit | advance | saveRamdisk | saveFails | tearDown =>
    cases h
    exact .inl rfl

/-- Every agent's step but RESET keeps the events that are queued and adds at most one, at the end. -/
theorem agentStep_events {g : AgentStep} {s t : State} (hr : ∀ d, g ≠ .reset d) (h : agentStep g s = .next t) :
    t.events = s.events ∨ ∃ e, t.events = s.events ++ [e] := by
  cases g with
  | reset d => exact absurd rfl (hr d)
  | bus x r =>
    obtain ⟨-, -, hevents⟩ := stepBus_frame h
    exact .inl hevents
  | pulse =>
    obtain ⟨-, rfl⟩ := stepPulse_cases h
    rw [pulseEffect_eq]
    by_cases he : s.enabled = true
    · exact .inr ⟨_, if_pos he⟩
    · exact .inl (if_neg he)
  | time n =>
    obtain ⟨-, -, rfl⟩ := stepTime_cases h
    exact .inl rfl
  | bridgeAssert | bridgeDeassert | transmit =>
    cases h
    exact .inr ⟨_, rfl⟩
  | clear | advance | saveRamdisk | saveFails | tearDown =>
    cases h
    exact .inl rfl

/-- Settles O51: by what an agent's step does to the clock and to the queue. -/
theorem timeAndEventsOnlyGrow : Obligations.TimeAndEventsOnlyGrow := by
  intro s t hr h
  rcases step_next h with ⟨-, rfl⟩ | ⟨g, rest, hs, hg⟩
  · exact ⟨le_rfl, [], (List.append_nil _).symm⟩
  · have noReset : ∀ d, g ≠ .reset d := fun d hd => hr d rest (hd ▸ hs)
    constructor
    · rcases agentStep_now noReset hg with hsame | ⟨-, hle⟩
      · exact hsame.ge
      · exact hle
    · rcases agentStep_events noReset hg with hsame | ⟨e, he⟩
      · exact ⟨[], hsame.trans (List.append_nil _).symm⟩
      · exact ⟨[e], he⟩

/-! The reset state (10_state.md R28). -/

/-- Settles O43: the fields as State.reset gives them, no ramdisk byte listed and no line asserted. -/
theorem resetStateHoldsTheSpecsValues : Obligations.ResetStateHoldsTheSpecsValues :=
  ⟨rfl, rfl, rfl, rfl, rfl, rfl, fun _ => rfl, fun _ => lineLevel_eq_false_iff.2 List.not_mem_nil, rfl, rfl⟩

/-- Settles O53: the parameters are well formed, ROM is the image, no other byte is listed and no line asserted, and
the first pulse is one period after the phase. -/
theorem resetStateMeetsTheInvariant : Obligations.ResetStateMeetsTheInvariant := by
  have parameters : State.reset.cfg.wf = true := by decide
  have stores : State.reset.storesOk := ⟨rfl, rfl, rfl, rfl, rfl⟩
  have lines : State.reset.linesOk := ⟨rfl, rfl⟩
  have schedule : State.reset.scheduleOk = true := by decide
  exact ⟨parameters, stores, lines, schedule⟩

end Sys2Proof.Machine

/-! Every step keeps the invariant: the stores, the lines and the pulse schedule, each by what a step can do to it. -/

namespace Sys2Proof.Machine

/-- An agent's step is the step of the machine with that agent at the head of the stream. -/
theorem agentStep_cfg {g : AgentStep} {s t : State} (h : agentStep g s = .next t) : t.cfg = s.cfg :=
  noStepChangesTheParameters (s.setStream (g :: s.stream)) t h

/-! The stores (10_state.md R22, 44_backing_store.md R91, R97). -/

theorem storesOk_of_block_eq {s t : State} (hs : s.storesOk) (h : t.block = s.block) : t.storesOk := by
  obtain ⟨hcfg, -, -, -, -, hram, hrom, hramdisk⟩ := block_eq_iff.1 h
  simpa only [State.storesOk, hcfg, hram, hrom, hramdisk] using hs

/-- A store write through a window as long as the store keeps the store's form and length. -/
theorem storeWrite_ok {o : LaneOrder} {w : Window} {m : Memory} {n : Nat} (a d mask : Word) (hn : windowSize w = n)
    (hwf : memoryWf m = true) (hin : memoryWithin n m = true) :
    memoryWf (storeWrite o w m a d mask) = true ∧ memoryWithin n (storeWrite o w m a d mask) = true := by
  subst hn
  exact ⟨storeWrite_wf o w m a d mask hwf, storeWrite_within o w m a d mask hin⟩

/-- Of the transactions only RAM_WR and RAMDISK_WR write a store, each its own, within the window. -/
theorem exec_storesOk {i : Instr} {s t : State} (hwf : s.cfg.wf = true) (hs : s.storesOk)
    (h : exec i s = .next t) : t.storesOk := by
  obtain ⟨hram, hramIn, hrom, hdisk, hdiskIn⟩ := hs
  rcases exec_cases h with
    ⟨_, rfl⟩ | ⟨_, _, _, _, _, _, -, rfl⟩ | ⟨-, _, rfl⟩ | ⟨-, _, rfl⟩ | ⟨-, _, rfl⟩ | ⟨_, _, rfl⟩
    | ⟨_, a, d, m, x, -, hl, hk, rfl⟩ | ⟨_, a, d, m, x, -, hl, hk, rfl⟩
  case inr.inr.inr.inl =>
    rw [tickEnable_eq]
    exact ⟨hram, hramIn, hrom, hdisk, hdiskIn⟩
  case inr.inr.inr.inr.inl =>
    rw [tickDisable_eq]
    exact ⟨hram, hramIn, hrom, hdisk, hdiskIn⟩
  case inr.inr.inr.inr.inr.inr.inl =>
    obtain ⟨size, -, -⟩ := windowSize_of_store hwf (lookup_mem hl).1
    obtain ⟨wf, within⟩ := storeWrite_ok (o := s.cfg.laneOrder) a d m (size hk) hram hramIn
    exact ⟨wf, within, hrom, hdisk, hdiskIn⟩
  case inr.inr.inr.inr.inr.inr.inr =>
    obtain ⟨-, -, size⟩ := windowSize_of_store hwf (lookup_mem hl).1
    obtain ⟨wf, within⟩ := storeWrite_ok (o := s.cfg.laneOrder) a d m (size hk) hdisk hdiskIn
    exact ⟨hram, hramIn, hrom, wf, within⟩
  all_goals exact ⟨hram, hramIn, hrom, hdisk, hdiskIn⟩

/-- LOAD_RAMDISK leaves a ramdisk in canonical form and within its length, whatever the blob (60_exceptions.md
R120). -/
theorem loadedRamdisk_ok (c : Config) (b : Option Blob) (reads : Bool) :
    memoryWf (loadedRamdisk c b reads) = true
      ∧ memoryWithin c.ramdiskSize (loadedRamdisk c b reads) = true := by
  cases b with
  | none => exact ⟨rfl, rfl⟩
  | some x =>
    rw [loadedRamdisk]
    split
    · exact ⟨memOfCells_wf _ _, memOfCells_within _ _⟩
    · exact ⟨rfl, rfl⟩

theorem resetState_storesOk (d : PowerOn) (s : State) : (resetState d s).storesOk := by
  obtain ⟨hdisk, hdiskIn⟩ := loadedRamdisk_ok s.cfg s.blob d.blobReads
  exact ⟨memOfCells_wf _ _, memOfCells_within _ _, rfl, hdisk, hdiskIn⟩

theorem agentStep_storesOk {g : AgentStep} {s t : State} (hwf : s.cfg.wf = true) (hs : s.storesOk)
    (h : agentStep g s = .next t) : t.storesOk := by
  rcases agentStep_cases h with ⟨d, -, rfl⟩ | ⟨x, r, i, -, -, hx⟩ | hsame
  · exact resetState_storesOk d s
  · exact exec_storesOk (s := s.setReplies r) hwf hs hx
  · exact storesOk_of_block_eq hs hsame

/-! The interrupt lines (10_state.md R23, 60_exceptions.md R104). -/

theorem linesOk_iff (s : State) :
    s.linesOk ↔ rising s.irq = true ∧ ∀ l ∈ s.irq, l ∈ allLines s.cfg := by
  simp [State.linesOk]

theorem linesOk_of_lowered {s t : State} {l : Nat} (hs : s.linesOk) (hcfg : t.cfg = s.cfg)
    (ht : t.irq = lowerIn s.irq l) : t.linesOk := by
  rw [linesOk_iff] at hs ⊢
  obtain ⟨hrising, hassigned⟩ := hs
  rw [ht, hcfg]
  exact ⟨lowerIn_rising l hrising, fun j hj => hassigned j (mem_lowerIn.1 hj).1⟩

theorem linesOk_of_raised {s t : State} {l : Nat} (hs : s.linesOk) (hcfg : t.cfg = s.cfg)
    (hl : l ∈ allLines s.cfg) (ht : t.irq = raiseIn s.irq l) : t.linesOk := by
  rw [linesOk_iff] at hs ⊢
  obtain ⟨hrising, hassigned⟩ := hs
  rw [ht, hcfg]
  refine ⟨raiseIn_rising l hrising, fun j hj => ?_⟩
  rcases mem_raiseIn.1 hj with hj | rfl
  · exact hassigned j hj
  · exact hl

theorem agentStep_linesOk {g : AgentStep} {s t : State} (hs : s.linesOk) (h : agentStep g s = .next t) :
    t.linesOk := by
  have hcfg := agentStep_cfg h
  rcases agentStep_irq h with hsame | ⟨l, -, hl⟩ | ⟨b, -, hl⟩ | ⟨d, -, hl⟩ | ⟨b, -, hl⟩ | ⟨-, -, -, hl⟩
  · simpa only [State.linesOk, hsame, hcfg] using hs
  · exact linesOk_of_lowered hs hcfg hl
  · exact linesOk_of_lowered hs hcfg hl
  · rw [linesOk_iff, hl]
    exact ⟨rfl, by simp⟩
  · exact linesOk_of_raised hs hcfg (bridgeLine_mem s.cfg b) hl
  · exact linesOk_of_raised hs hcfg (tickLine_mem s.cfg) hl

/-! The pulse schedule (10_state.md R17, 60_exceptions.md R105, R119). -/

/-- Under FREE_RUNNING a pulse is always pending, on the fixed schedule, whatever `enabled` is. -/
theorem scheduleOk_of_freeRunning {s : State} (hpol : s.cfg.tickPolicy = .freeRunning) :
    s.scheduleOk = true ↔ ∃ p, s.nextPulse = some p ∧ s.now ≤ p ∧ s.cfg.tickPhase + s.cfg.tickPeriod ≤ p
      ∧ (p - s.cfg.tickPhase) % s.cfg.tickPeriod = 0 := by
  cases hn : s.nextPulse <;> simp [State.scheduleOk, hpol, hn, and_assoc]

/-- Under RESTART_ON_ENABLE a pulse is pending exactly while `enabled`, at most a period ahead. -/
theorem scheduleOk_of_restart {s : State} (hpol : s.cfg.tickPolicy = .restartOnEnable) :
    s.scheduleOk = true ↔ (s.enabled = false ∧ s.nextPulse = none)
      ∨ (s.enabled = true ∧ ∃ p, s.nextPulse = some p ∧ s.now ≤ p ∧ p ≤ s.now + s.cfg.tickPeriod) := by
  cases hn : s.nextPulse <;> simp [State.scheduleOk, hpol, hn, and_assoc]

theorem tickEnable_scheduleOk {s : State} (hs : s.scheduleOk = true) : (tickEnable s).scheduleOk = true := by
  rw [tickEnable_eq]
  cases hpol : s.cfg.tickPolicy with
  | freeRunning =>
    rw [scheduleOk_of_freeRunning hpol] at hs
    rw [scheduleOk_of_freeRunning (by exact hpol)]
    simpa using hs
  | restartOnEnable =>
    rw [scheduleOk_of_restart hpol] at hs
    rw [scheduleOk_of_restart (by exact hpol)]
    rcases hs with ⟨hoff, -⟩ | ⟨hon, p, hp, hahead, hperiod⟩
    · exact .inr ⟨rfl, s.now + s.cfg.tickPeriod, by simp [hoff], Nat.le_add_right _ _, le_rfl⟩
    · exact .inr ⟨rfl, p, by simp [hon, hp], hahead, hperiod⟩

theorem tickDisable_scheduleOk {s : State} (hs : s.scheduleOk = true) : (tickDisable s).scheduleOk = true := by
  rw [tickDisable_eq]
  cases hpol : s.cfg.tickPolicy with
  | freeRunning =>
    rw [scheduleOk_of_freeRunning hpol] at hs
    rw [scheduleOk_of_freeRunning (by exact hpol)]
    simpa using hs
  | restartOnEnable => exact (scheduleOk_of_restart (by exact hpol)).2 (.inl ⟨rfl, by simp⟩)

/-- Of the transactions only those of the two tick windows touch the schedule (42_tick_controller.md R81). -/
theorem exec_scheduleOk {i : Instr} {s t : State} (hs : s.scheduleOk = true) (h : exec i s = .next t) :
    t.scheduleOk = true := by
  rcases exec_cases h with
    ⟨_, rfl⟩ | ⟨_, _, _, _, _, _, -, rfl⟩ | ⟨-, _, rfl⟩ | ⟨-, _, rfl⟩ | ⟨-, _, rfl⟩ | ⟨_, _, rfl⟩
    | ⟨_, _, _, _, _, -, -, -, rfl⟩ | ⟨_, _, _, _, _, -, -, -, rfl⟩
  case inr.inr.inr.inl => exact tickEnable_scheduleOk hs
  case inr.inr.inr.inr.inl => exact tickDisable_scheduleOk hs
  all_goals exact hs

/-- A due pulse puts the next one a period later, so on the same schedule (60_exceptions.md R105, R106). -/
theorem pulseEffect_scheduleOk {s : State} (hs : s.scheduleOk = true) (hdue : s.nextPulse = some s.now) :
    (pulseEffect s.now s).scheduleOk = true := by
  rw [pulseEffect_eq]
  cases hpol : s.cfg.tickPolicy with
  | freeRunning =>
    rw [scheduleOk_of_freeRunning hpol] at hs
    rw [scheduleOk_of_freeRunning (by exact hpol)]
    obtain ⟨p, hp, -, hfirst, hmod⟩ := hs
    cases hdue.symm.trans hp
    have hphase : s.cfg.tickPhase ≤ s.now := (Nat.le_add_right _ _).trans hfirst
    refine ⟨s.now + s.cfg.tickPeriod, rfl, Nat.le_add_right _ _, hfirst.trans (Nat.le_add_right _ _), ?_⟩
    rw [Nat.sub_add_comm hphase, Nat.add_mod_right, hmod]
  | restartOnEnable =>
    rw [scheduleOk_of_restart hpol] at hs
    rw [scheduleOk_of_restart (by exact hpol)]
    rcases hs with ⟨-, hnone⟩ | ⟨hon, -⟩
    · cases hdue.symm.trans hnone
    · exact .inr ⟨hon, _, rfl, Nat.le_add_right _ _, le_rfl⟩

/-- TIME stays before the pending pulse, and a later time is only closer to it (60_exceptions.md R119). -/
theorem setNow_scheduleOk {s : State} {n : Nat} (hs : s.scheduleOk = true) (hnow : s.now ≤ n)
    (hpending : ∀ p, s.nextPulse = some p → n ≤ p) : (s.setNow n).scheduleOk = true := by
  cases hpol : s.cfg.tickPolicy with
  | freeRunning =>
    rw [scheduleOk_of_freeRunning hpol] at hs
    rw [scheduleOk_of_freeRunning (by exact hpol)]
    obtain ⟨p, hp, -, hfirst, hmod⟩ := hs
    exact ⟨p, hp, hpending p hp, hfirst, hmod⟩
  | restartOnEnable =>
    rw [scheduleOk_of_restart hpol] at hs
    rw [scheduleOk_of_restart (by exact hpol)]
    rcases hs with hoff | ⟨hon, p, hp, -, hperiod⟩
    · exact .inl hoff
    · exact .inr ⟨hon, p, hp, hpending p hp, hperiod.trans (Nat.add_le_add_right hnow _)⟩

theorem resetState_scheduleOk (d : PowerOn) (s : State) : (resetState d s).scheduleOk = true := by
  cases hpol : s.cfg.tickPolicy with
  | freeRunning =>
    refine (scheduleOk_of_freeRunning (by exact hpol)).2
      ⟨s.cfg.tickPhase + s.cfg.tickPeriod, by simp [resetState, firstPulse, hpol], Nat.zero_le _, le_rfl, ?_⟩
    exact (congrArg (· % s.cfg.tickPeriod) (Nat.add_sub_cancel_left ..)).trans (Nat.mod_self _)
  | restartOnEnable =>
    exact (scheduleOk_of_restart (by exact hpol)).2
      (.inl ⟨rfl, by simp [resetState, firstPulse, hpol]⟩)

theorem agentStep_scheduleOk {g : AgentStep} {s t : State} (hs : s.scheduleOk = true)
    (h : agentStep g s = .next t) : t.scheduleOk = true := by
  cases g with
  | bus x r =>
    rcases stepBus_cases h with ⟨i, -, hx⟩ | rfl
    · exact exec_scheduleOk (s := s.setReplies r) hs hx
    · exact hs
  | pulse =>
    obtain ⟨hdue, rfl⟩ := stepPulse_cases h
    exact pulseEffect_scheduleOk hs hdue
  | time n =>
    obtain ⟨hnow, hpending, rfl⟩ := stepTime_cases h
    exact setNow_scheduleOk hs hnow hpending
  | reset d =>
    cases h
    exact resetState_scheduleOk d s
  | clear | bridgeAssert | bridgeDeassert | transmit | advance | saveRamdisk | saveFails | tearDown =>
    cases h
    exact hs

theorem agentStep_inv {g : AgentStep} {s t : State} (hs : s.Inv) (h : agentStep g s = .next t) : t.Inv := by
  obtain ⟨hwf, hstores, hlines, hschedule⟩ := hs
  exact ⟨(congrArg Config.wf (agentStep_cfg h)).trans hwf, agentStep_storesOk hwf hstores h,
    agentStep_linesOk hlines h, agentStep_scheduleOk hschedule h⟩

/-- Settles O54: with no step left the state is the same, and the invariant does not speak of the stream, so an
agent's step keeps it. -/
theorem everyStepKeepsTheInvariant : Obligations.EveryStepKeepsTheInvariant := by
  intro s t hs h
  rcases step_next h with ⟨-, rfl⟩ | ⟨g, rest, -, hg⟩
  · exact hs
  · exact agentStep_inv (s := s.setStream rest) hs hg

end Sys2Proof.Machine

/-! The window of an address (20_memory.md R38). -/

namespace Sys2Proof.Machine

/-- In a table without overlaps `lookup` finds exactly the window that covers the address. -/
theorem lookup_eq_some_iff {tbl : List Window} (h : windowsDisjoint tbl = true) {a : Word} {w : Window} :
    lookup tbl a = some w ↔ w ∈ tbl ∧ covers w a = true :=
  ⟨lookup_mem, fun ⟨hw, hwa⟩ => lookup_of_mem h hw hwa⟩

/-- The search order does not matter: what another order finds is a window of the table, and there is only one. -/
theorem lookup_perm {tbl tbl' : List Window} (h : windowsDisjoint tbl = true) (hp : tbl'.Perm tbl) (a : Word) :
    lookup tbl' a = lookup tbl a := by
  cases hl : lookup tbl' a with
  | none => exact (lookup_none.2 fun w hw => lookup_none.1 hl w (hp.mem_iff.2 hw)).symm
  | some w =>
    obtain ⟨hw, hwa⟩ := lookup_mem hl
    exact (lookup_of_mem h (hp.mem_iff.1 hw) hwa).symm

/-- Settles O6: a window covers the address by its two bounds, and no two windows of the table do. -/
theorem lookupFindsTheWindowOfTheAddress : Obligations.LookupFindsTheWindowOfTheAddress := by
  intro tbl a h
  refine ⟨fun w => ?_, ?_, fun tbl' hp => lookup_perm h hp a⟩
  · rw [lookup_eq_some_iff h, covers_iff]
  · simp only [lookup_none, ← covers_iff, Bool.not_eq_true]

end Sys2Proof.Machine

/-! The same masked write twice (20_memory.md R35, R47). -/

namespace Sys2Proof.Machine

/-- Each byte a store write touches is merged, and a merge repeated changes nothing. -/
theorem storeWrite_idem (o : LaneOrder) (w : Window) (m : Memory) (a d mask : Word) (hm : memoryWf m = true) :
    storeWrite o w (storeWrite o w m a d mask) a d mask = storeWrite o w m a d mask := by
  have hm' := storeWrite_wf o w m a d mask hm
  refine memory_ext (storeWrite_wf o w _ a d mask hm') hm' fun off => ?_
  rw [memRead_storeWrite o w _ a d mask hm', memRead_storeWrite o w m a d mask hm]
  cases storedLane o w a mask off with
  | none => rfl
  | some k => exact mergeByte_idem _ _ _

@[simp] theorem slotOvr_setResult (s : State) (v : Option Word) (i : Nat) :
    slotOvr (s.setResult v) i = slotOvr s i := rfl

@[simp] theorem slotOvr_setSlot_same (s : State) (i : Nat) (v : Word) : slotOvr (s.setSlot i v) i = v := by
  by_cases hi : i = 0 <;> simp [slotOvr, hi]

theorem setSlot_setResult (s : State) (i : Nat) (v : Word) (r : Option Word) :
    (s.setResult r).setSlot i v = (s.setSlot i v).setResult r := rfl

@[simp] theorem setSlot_setSlot (s : State) (i : Nat) (v v' : Word) :
    (s.setSlot i v).setSlot i v' = s.setSlot i v' := by
  by_cases hi : i = 0 <;> simp [State.setSlot, hi]

theorem exec_vecWr_of_lookup {s : State} {a : Word} {x : Window} (w : Width) (d m : Word)
    (hl : lookup s.cfg.windows a = some x) (hk : x.kind = .vector) :
    exec (.vecWr w a d m) s
      = .next ((s.setSlot (vecSlot (offsetIn x a)) (merge (slotOvr s (vecSlot (offsetIn x a))) d m)).setResult none) :=
  atKind_of_lookup hl hk

theorem exec_ramWr_of_lookup {s : State} {a : Word} {x : Window} (w : Width) (d m : Word)
    (hl : lookup s.cfg.windows a = some x) (hk : x.kind = .ram) :
    exec (.ramWr w a d m) s = .next ((s.setRam (storeWrite s.cfg.laneOrder x s.ram a d m)).setResult none) :=
  atKind_of_lookup hl hk

theorem exec_ramdiskWr_of_lookup {s : State} {a : Word} {x : Window} (w : Width) (d m : Word)
    (hl : lookup s.cfg.windows a = some x) (hk : x.kind = .ramdisk) :
    exec (.ramdiskWr w a d m) s
      = .next ((s.setRamdisk (storeWrite s.cfg.laneOrder x s.ramdisk a d m)).setResult none) :=
  atKind_of_lookup hl hk

/-- Settles O36: the second write finds the same window, and merges into what the first has merged already. -/
theorem repeatedWritesAreIdempotent : Obligations.RepeatedWritesAreIdempotent := by
  rintro i s t (⟨w, a, d, m, rfl⟩ | ⟨w, a, d, m, rfl⟩ | ⟨w, a, d, m, rfl⟩) hram hramdisk h
  · obtain ⟨x, hl, hk, ht⟩ := atKind_next h
    cases ht
    rw [exec_vecWr_of_lookup w d m (by exact hl) hk, slotOvr_setResult, slotOvr_setSlot_same, merge_idem,
      setSlot_setResult, setSlot_setSlot]
    rfl
  · obtain ⟨x, hl, hk, ht⟩ := atKind_next h
    cases ht
    rw [exec_ramWr_of_lookup w d m (by exact hl) hk, setResult_ram, setRam_ram, setResult_cfg, setRam_cfg,
      storeWrite_idem _ _ _ _ _ _ hram]
    rfl
  · obtain ⟨x, hl, hk, ht⟩ := atKind_next h
    cases ht
    rw [exec_ramdiskWr_of_lookup w d m (by exact hl) hk, setResult_ramdisk, setRamdisk_ramdisk, setResult_cfg,
      setRamdisk_cfg, storeWrite_idem _ _ _ _ _ _ hramdisk]
    rfl

end Sys2Proof.Machine

/-! Masked merge (20_memory.md R35). -/

namespace Sys2Proof.Machine

/-- Bits where the mask is 1 take the data, the others stay. -/
theorem getLsbD_merge (old d m : Word) {i : Nat} (hi : i < 32) :
    (merge old d m).getLsbD i = if m.getLsbD i = true then d.getLsbD i else old.getLsbD i := by
  simp only [merge, BitVec.getLsbD_or, BitVec.getLsbD_and, BitVec.getLsbD_not, hi, decide_true, Bool.true_and]
  cases m.getLsbD i <;> simp

/-- Settles O38: the formula is `merge` itself, and each lane's is `mergeByte`. -/
theorem maskedMergeIsBitwiseAndIdempotent : Obligations.MaskedMergeIsBitwiseAndIdempotent :=
  fun o old d m =>
    ⟨rfl, fun _ hi => getLsbD_merge old d m hi, merge_idem old d m, fun k => lane_merge o old d m k⟩

end Sys2Proof.Machine

/-! No operation looks at its width (20_memory.md R44, decision D4). -/

namespace Sys2Proof.Machine

theorem exec_readOp_width (k : Option Kind) (w w' : Width) (a m : Word) (s : State) :
    exec (readOp k w a m) s = exec (readOp k w' a m) s := by
  rcases k with _ | k
  · rfl
  · cases k <;> rfl

theorem exec_writeOp_width (k : Option Kind) (w w' : Width) (a d m : Word) (s : State) :
    exec (writeOp k w a d m) s = exec (writeOp k w' a d m) s := by
  rcases k with _ | k
  · rfl
  · cases k <;> rfl

/-- Settles O48: two words of one direction and address decode to one operation, a read without its DATA, and no
operation looks at its width. -/
theorem widthAndReadDataHaveNoEffect : Obligations.WidthAndReadDataHaveNoEffect := by
  intro s x y i j hx hy hdir haddr hmask hdata
  obtain ⟨-, w, -, rfl⟩ := decode_eq_ok_iff.1 hx
  obtain ⟨-, w', -, rfl⟩ := decode_eq_ok_iff.1 hy
  rw [← hdir, ← haddr, ← hmask]
  by_cases hwrite : (headerField x).getLsbD 7 = true
  · rw [if_pos hwrite, if_pos hwrite, ← hdata hwrite]
    exact exec_writeOp_width ..
  · rw [if_neg hwrite, if_neg hwrite]
    exact exec_readOp_width ..

end Sys2Proof.Machine

/-! The transactions of a CPU access (20_memory.md R42). -/

namespace Sys2Proof.Machine

theorem lane_mask_cpuPart (o : LaneOrder) (w : Width) (v a : Word) (i s n : Nat) (k : Fin 4) :
    lane o (cpuPart o w v a i s n).mask k = if s ≤ k.val ∧ k.val < s + n then 0xFF#8 else 0x00#8 :=
  lane_maskOfLanes o s n k

/-- Lane `s` holds byte `i` of the value, and so on up. -/
theorem lane_data_cpuPart (o : LaneOrder) (w : Width) (v a : Word) (i s n : Nat) {k : Fin 4}
    (hk : s ≤ k.val ∧ k.val < s + n) :
    lane o (cpuPart o w v a i s n).data k = valueByte o w v (i + (k.val - s)) := by
  have hfill := lane_fill o (fun k => decide (s ≤ k.val ∧ k.val < s + n))
    (fun k => valueByte o w v (i + (k.val - s))) lanes lanes_nodup 0#32 k
  simp only [decide_eq_true_eq] at hfill
  exact hfill.trans (if_pos ⟨mem_lanes k, hk⟩)

/-- Each lane of the part is inactive, or is a byte of the access at `a` and carries it. -/
def CpuPart.CarriesBytesOf (o : LaneOrder) (w : Width) (v a : Word) (p : CpuPart) : Prop :=
  ∀ k, lane o p.mask k = 0x00#8
    ∨ (lane o p.mask k = 0xFF#8 ∧ ∃ i < widthBytes w, laneAddr p.addr k = a.toNat + i
        ∧ lane o p.data k = valueByte o w v i)

/-- Byte `i` of the access at `a` is an active lane of the part. -/
def CpuPart.HasByte (o : LaneOrder) (a : Word) (i : Nat) (p : CpuPart) : Prop :=
  ∃ k, lane o p.mask k = 0xFF#8 ∧ laneAddr p.addr k = a.toNat + i

section part

/-! A part for the `n` bytes from `i` on of the access at `a`, which lie in lanes from `s` on of the word of `b`. -/

variable {o : LaneOrder} {w : Width} {v a b : Word} {i s n : Nat}

theorem cpuPart_carriesBytesOf (hpos : wordBase b + s = a.toNat + i) (hn : i + n ≤ widthBytes w) :
    (cpuPart o w v b i s n).CarriesBytesOf o w v a := by
  intro k
  rw [lane_mask_cpuPart]
  by_cases hk : s ≤ k.val ∧ k.val < s + n
  · have haddr : laneAddr b k = a.toNat + (i + (k.val - s)) := by
      rw [laneAddr]
      omega
    exact .inr ⟨if_pos hk, i + (k.val - s), by omega, haddr, lane_data_cpuPart o w v b i s n hk⟩
  · exact .inl (if_neg hk)

theorem cpuPart_hasByte (hpos : wordBase b + s = a.toNat + i) (hs : s + n ≤ 4) {j : Nat} (hij : i ≤ j)
    (hj : j < i + n) : (cpuPart o w v b i s n).HasByte o a j := by
  obtain ⟨k, hk⟩ : ∃ k : Fin 4, k.val = s + (j - i) := ⟨⟨s + (j - i), by omega⟩, rfl⟩
  have haddr : laneAddr b k = a.toNat + j := by
    rw [laneAddr]
    omega
  exact ⟨k, (lane_mask_cpuPart ..).trans (if_pos (by omega)), haddr⟩

end part

/-- The word above the word of an address, when there is one. -/
theorem toNat_nextWord {a : Word} (h : wordBase a + 4 < 2 ^ 32) :
    (BitVec.ofNat 32 (wordBase a + 4)).toNat = wordBase a + 4 := by
  rw [BitVec.toNat_ofNat, Nat.mod_eq_of_lt h]

theorem wordBase_nextWord {a : Word} (h : wordBase a + 4 < 2 ^ 32) :
    wordBase (BitVec.ofNat 32 (wordBase a + 4)) = wordBase a + 4 := by
  have hmod := wordBase_mod a
  rw [wordBase_eq, toNat_nextWord h]
  omega

theorem wordBase_add_laneOfAddr (a : Word) : wordBase a + laneOfAddr a = a.toNat := by
  rw [wordBase_eq, laneOfAddr]
  omega

/-- The transactions of an access: one within a word, two when it crosses, none past the top (20_memory.md R42,
notes/assumptions/15.md). -/
theorem cpuParts_eq_some_iff {o : LaneOrder} {w : Width} {v a : Word} {ps : List CpuPart} :
    cpuParts o w v a = some ps
      ↔ (laneOfAddr a + widthBytes w ≤ 4 ∧ ps = [cpuPart o w v a 0 (laneOfAddr a) (widthBytes w)])
        ∨ (4 < laneOfAddr a + widthBytes w ∧ wordBase a + 4 < 2 ^ 32
          ∧ ps = [cpuPart o w v a 0 (laneOfAddr a) (4 - laneOfAddr a),
              cpuPart o w v (BitVec.ofNat 32 (wordBase a + 4)) (4 - laneOfAddr a) 0
                (laneOfAddr a + widthBytes w - 4)]) := by
  simp only [cpuParts]
  split_ifs with hfits htop
  · simp [hfits, Nat.not_lt.2 hfits, eq_comm]
  · simp only [hfits, htop, Nat.lt_of_not_le hfits, Option.some.injEq, eq_comm, false_and, true_and, false_or]
  · simp only [hfits, htop, false_and, and_false, or_false]

theorem cpuParts_isSome_iff (o : LaneOrder) (w : Width) (v a : Word) :
    (∃ ps, cpuParts o w v a = some ps) ↔ laneOfAddr a + widthBytes w ≤ 4 ∨ wordBase a + 4 < 2 ^ 32 := by
  simp only [cpuParts_eq_some_iff]
  constructor
  · rintro ⟨ps, ⟨hfits, -⟩ | ⟨-, htop, -⟩⟩
    · exact .inl hfits
    · exact .inr htop
  · intro h
    by_cases hfits : laneOfAddr a + widthBytes w ≤ 4
    · exact ⟨_, .inl ⟨hfits, rfl⟩⟩
    · exact ⟨_, .inr ⟨Nat.lt_of_not_le hfits, h.resolve_left hfits, rfl⟩⟩

theorem widthBytes_le (w : Width) : widthBytes w ≤ 4 := by
  cases w <;> decide

/-- Each part holds a run of the bytes of the access, in the lanes where they lie (20_memory.md R42). -/
theorem cpuParts_carry {o : LaneOrder} {w : Width} {v a : Word} {ps : List CpuPart}
    (h : cpuParts o w v a = some ps) : ∀ p ∈ ps, p.CarriesBytesOf o w v a := by
  have hpos := wordBase_add_laneOfAddr a
  intro p hp
  rcases cpuParts_eq_some_iff.1 h with ⟨-, rfl⟩ | ⟨hcross, htop, rfl⟩
  · cases List.mem_singleton.1 hp
    exact cpuPart_carriesBytesOf hpos (by omega)
  · have hnext := wordBase_nextWord htop
    have hlane : laneOfAddr a < 4 := Nat.mod_lt _ (by decide)
    rcases List.mem_pair.1 hp with rfl | rfl
    · exact cpuPart_carriesBytesOf hpos (by omega)
    · exact cpuPart_carriesBytesOf (by omega) (by omega)

/-- No byte of the access is left out: those of the crossed word are in the second part. -/
theorem cpuParts_cover {o : LaneOrder} {w : Width} {v a : Word} {ps : List CpuPart}
    (h : cpuParts o w v a = some ps) {i : Nat} (hi : i < widthBytes w) : ∃ p ∈ ps, p.HasByte o a i := by
  have hpos := wordBase_add_laneOfAddr a
  rcases cpuParts_eq_some_iff.1 h with ⟨hfits, rfl⟩ | ⟨hcross, htop, rfl⟩
  · exact ⟨_, List.mem_singleton_self _, cpuPart_hasByte hpos hfits (Nat.zero_le i) (by omega)⟩
  · have hnext := wordBase_nextWord htop
    have hwidth := widthBytes_le w
    have hlane : laneOfAddr a < 4 := Nat.mod_lt _ (by decide)
    by_cases hfirst : i < 4 - laneOfAddr a
    · exact ⟨_, List.mem_pair.2 (.inl rfl), cpuPart_hasByte hpos (by omega) (Nat.zero_le i) (by omega)⟩
    · exact ⟨_, List.mem_pair.2 (.inr rfl), cpuPart_hasByte (by omega) (by omega) (by omega) (by omega)⟩

/-- Settles O41: the parts are those of `cpuParts_eq_some_iff`, whose lanes carry and cover the access. -/
theorem splitPartsCoverTheAccess : Obligations.SplitPartsCoverTheAccess := by
  intro o w v a
  rw [← wordBase_eq, ← laneOfAddr]
  refine ⟨cpuParts_isSome_iff o w v a, fun ps h => ?_⟩
  have carry := cpuParts_carry h
  have cover : ∀ i < widthBytes w, ∃ p ∈ ps, p.HasByte o a i := fun i hi => cpuParts_cover h hi
  rcases cpuParts_eq_some_iff.1 h with ⟨hfits, rfl⟩ | ⟨hcross, htop, rfl⟩
  · exact ⟨fun _ => ⟨_, rfl, rfl⟩, fun hcross => absurd hfits (Nat.not_le.2 hcross), carry, cover⟩
  · exact ⟨fun hfits => absurd hfits (Nat.not_le.2 hcross),
      fun _ => ⟨_, _, rfl, rfl, toNat_nextWord htop, wordBase_nextWord htop⟩, carry, cover⟩

end Sys2Proof.Machine

/-! The encoding and its inverse (30_encoding.md R56 to R58, R61, R63). -/

namespace Sys2Proof

open Machine

/-! The four fields of what the encoder writes. -/

theorem encodeRead_fields (w : Width) (a m : Word) :
    headerField (encodeRead w a m) = headerByte false w ∧ addressField (encodeRead w a m) = a
      ∧ dataField (encodeRead w a m) = 0x00000000#32 ∧ maskField (encodeRead w a m) = m :=
  ⟨header_append .., address_append .., data_append .., mask_append ..⟩

theorem encodeWrite_fields (w : Width) (a d m : Word) :
    headerField (encodeWrite w a d m) = headerByte true w ∧ addressField (encodeWrite w a d m) = a
      ∧ dataField (encodeWrite w a d m) = d ∧ maskField (encodeWrite w a d m) = m :=
  ⟨header_append .., address_append .., data_append .., mask_append ..⟩

/-! The operation is not encoded: its bits are those of any read, or any write, of the same operands. -/

@[simp] theorem encode_readOp (k : Option Kind) (w : Width) (a m : Word) :
    encode (readOp k w a m) = encodeRead w a m := by
  rcases k with _ | k
  · rfl
  · cases k <;> rfl

@[simp] theorem encode_writeOp (k : Option Kind) (w : Width) (a d m : Word) :
    encode (writeOp k w a d m) = encodeWrite w a d m := by
  rcases k with _ | k
  · rfl
  · cases k <;> rfl

/-- A term that fits a window kind is that kind's read or its write (30_encoding.md R58). -/
theorem eq_readOp_or_writeOp_of_fitsKind {i : Instr} {k : Option Kind} (h : i.fitsKind k = true) :
    (∃ w a m, i = readOp k w a m) ∨ ∃ w a d m, i = writeOp k w a d m := by
  cases i with
  | unmappedRd | vecRd | remapRd | tickonRd | tickoffRd | storageRd | ramRd | romRd | ramdiskRd =>
    cases of_decide_eq_true h
    exact .inl ⟨_, _, _, rfl⟩
  | unmappedWr | vecWr | remapWr | tickonWr | tickoffWr | storageWr | ramWr | romWr | ramdiskWr =>
    cases of_decide_eq_true h
    exact .inr ⟨_, _, _, _, rfl⟩
  | serialRd =>
    obtain ⟨b, rfl⟩ := (isSerialKind_iff k).1 h
    exact .inl ⟨_, _, _, rfl⟩
  | serialWr =>
    obtain ⟨b, rfl⟩ := (isSerialKind_iff k).1 h
    exact .inr ⟨_, _, _, _, rfl⟩

/-- The transactions of a table are the reads and writes of the window of their address (30_encoding.md R58). -/
theorem wf_iff_eq_readOp_or_writeOp {tbl : List Window} {i : Instr} :
    i.wf tbl = true ↔ (∃ w a m, i = readOp (kindAt tbl a) w a m) ∨ ∃ w a d m, i = writeOp (kindAt tbl a) w a d m := by
  constructor
  · intro h
    rcases eq_readOp_or_writeOp_of_fitsKind h with ⟨w, a, m, hi⟩ | ⟨w, a, d, m, hi⟩
    · have haddr : i.addr = a := by rw [hi, addr_readOp]
      exact .inl ⟨w, a, m, haddr ▸ hi⟩
    · have haddr : i.addr = a := by rw [hi, addr_writeOp]
      exact .inr ⟨w, a, d, m, haddr ▸ hi⟩
  · rintro (⟨w, a, m, rfl⟩ | ⟨w, a, d, m, rfl⟩) <;> simp [Instr.wf]

theorem decode_encodeRead (tbl : List Window) (w : Width) (a m : Word) :
    decode tbl (encodeRead w a m) = .ok (readOp (kindAt tbl a) w a m) := by
  obtain ⟨hheader, haddr, -, hmask⟩ := encodeRead_fields w a m
  obtain ⟨hres, hwid, hdir⟩ := headerByte_fields false w
  rw [decode_eq_ok_iff, hheader, haddr, hmask, hdir]
  exact ⟨hres, w, hwid, rfl⟩

theorem decode_encodeWrite (tbl : List Window) (w : Width) (a d m : Word) :
    decode tbl (encodeWrite w a d m) = .ok (writeOp (kindAt tbl a) w a d m) := by
  obtain ⟨hheader, haddr, hdata, hmask⟩ := encodeWrite_fields w a d m
  obtain ⟨hres, hwid, hdir⟩ := headerByte_fields true w
  rw [decode_eq_ok_iff, hheader, haddr, hdata, hmask, hdir]
  exact ⟨hres, w, hwid, rfl⟩

/-- Settles O1: a transaction of the table is the read or the write of its address's window, and that is what the
decoder makes of its bits. -/
theorem decodeOfEncodeGivesTheTransaction : Obligations.DecodeOfEncodeGivesTheTransaction := by
  intro tbl i h
  rcases wf_iff_eq_readOp_or_writeOp.1 h with ⟨w, a, m, rfl⟩ | ⟨w, a, d, m, rfl⟩
  · rw [encode_readOp, decode_encodeRead]
  · rw [encode_writeOp, decode_encodeWrite]

/-! The header: its two fields are the width and the direction, and nothing else is left (30_encoding.md R56). -/

theorem widthOfBits_eq_some_iff {b : BitVec 2} {w : Width} : widthOfBits b = some w ↔ b = widthBits w := by
  revert b
  cases w <;> decide

theorem widthOfBits_eq_none_iff {b : BitVec 2} : widthOfBits b = none ↔ b = 3 := by
  revert b
  decide

/-- `DIR`, `WID` and the five low bits are all of TH. -/
theorem header_eq_append (th : Byte) :
    BitVec.ofBool (th.getLsbD 7) ++ th.extractLsb' 5 2 ++ th.extractLsb' 0 5 = th := by
  refine BitVec.eq_of_getLsbD_eq fun i hi => ?_
  simp only [BitVec.getLsbD_append, BitVec.getLsbD_extractLsb', BitVec.getLsbD_ofBool]
  interval_cases i <;> rfl

/-- A header that is not reserved is the one the encoder writes. -/
theorem headerByte_of_fields {th : Byte} {w : Width} (hres : th.extractLsb' 0 5 = 0)
    (hwid : widthOfBits (th.extractLsb' 5 2) = some w) : headerByte (th.getLsbD 7) w = th := by
  rw [headerByte, ← widthOfBits_eq_some_iff.1 hwid, ← hres, header_eq_append]

/-- Settles O2: the header is rebuilt from its direction and its width, the other fields are operands. -/
theorem encodeOfDecodeGivesTheFields : Obligations.EncodeOfDecodeGivesTheFields := by
  intro tbl x i h
  refine ⟨wf_of_decode h, ?_⟩
  obtain ⟨hres, w, hwid, rfl⟩ := decode_eq_ok_iff.1 h
  have hth := headerByte_of_fields hres hwid
  cases hdir : (headerField x).getLsbD 7 with
  | false =>
    obtain ⟨hheader, haddr, hdata, hmask⟩ := encodeRead_fields w (addressField x) (maskField x)
    rw [hdir] at hth
    simp [hheader, haddr, hdata, hmask, hth]
  | true =>
    obtain ⟨hheader, haddr, hdata, hmask⟩ := encodeWrite_fields w (addressField x) (dataField x) (maskField x)
    rw [hdir] at hth
    simp [hheader, haddr, hdata, hmask, hth]

@[simp] theorem length_bytesOf (x : Encoded) : (bytesOf x).length = 13 := by
  simp [bytesOf]

theorem decodeBytes_bytesOf (tbl : List Window) (x : Encoded) : decodeBytes tbl (bytesOf x) = decode tbl x := by
  rw [decodeBytes, if_pos (length_bytesOf x), assemble_bytesOf]

/-- Settles O3: the 13 bytes assemble to the 104 bits, which decode by O1. -/
theorem decodeOfTheThirteenBytes : Obligations.DecodeOfTheThirteenBytes := by
  intro tbl i h
  exact ⟨length_bytesOf _, (decodeBytes_bytesOf tbl _).trans (decodeOfEncodeGivesTheTransaction tbl i h)⟩

/-- What decodes, by the header alone: no reserved bit, and a width that is not reserved. -/
theorem exists_decode_eq_ok_iff {tbl : List Window} {x : Encoded} :
    (∃ i, decode tbl x = .ok i)
      ↔ (headerField x).extractLsb' 0 5 = 0 ∧ (headerField x).extractLsb' 5 2 ≠ 3 := by
  have hwid : (headerField x).extractLsb' 5 2 ≠ 3 ↔ ∃ w, widthOfBits ((headerField x).extractLsb' 5 2) = some w := by
    rw [Ne, ← widthOfBits_eq_none_iff, ← Ne, Option.ne_none_iff_exists']
  rw [hwid]
  constructor
  · rintro ⟨i, h⟩
    obtain ⟨hres, w, hw, -⟩ := decode_eq_ok_iff.1 h
    exact ⟨hres, w, hw⟩
  · rintro ⟨hres, w, hw⟩
    exact ⟨_, decode_eq_ok_iff.2 ⟨hres, w, hw, rfl⟩⟩

/-- Settles O4: what does not decode is refused, and only the header decides which. -/
theorem onlyReservedHeadersAreRefused : Obligations.OnlyReservedHeadersAreRefused := by
  intro tbl x
  have herror : (∃ e, decode tbl x = .error e) ↔ ¬ ∃ i, decode tbl x = .ok i := by
    cases decode tbl x <;> simp
  rw [herror, exists_decode_eq_ok_iff, not_and_or, not_not]

/-- Bits the encoder writes for a transaction of the table decode to it. -/
theorem decode_of_eq_encode {tbl : List Window} {x : Encoded} {i : Instr} (hwf : i.wf tbl = true)
    (hx : x = encode i) : decode tbl x = .ok i :=
  hx ▸ decodeOfEncodeGivesTheTransaction tbl i hwf

/-- Settles O5: each word is the encoding of its operation, a transaction of the illustrative table. -/
theorem wordsOfTheSpecDecode : Obligations.WordsOfTheSpecDecode :=
  ⟨decode_of_eq_encode (by decide) (by decide), decode_of_eq_encode (by decide) (by decide),
    decode_of_eq_encode (by decide) (by decide), decode_of_eq_encode (by decide) (by decide),
    decode_of_eq_encode (by decide) (by decide), decode_of_eq_encode (by decide) (by decide),
    decode_of_eq_encode (by decide) (by decide)⟩

end Sys2Proof

/-! Terms whose address is in no window of their kind (notes/assumptions/12.md). -/

namespace Sys2Proof.Machine

theorem atUnmapped_misrouted {a : Word} {s : State} {r : Result} (h : kindAt s.cfg.windows a ≠ none) :
    atUnmapped a s r = .refused .misrouted := by
  obtain ⟨k, hk⟩ := Option.ne_none_iff_exists'.1 h
  obtain ⟨w, hl, -⟩ := kindAt_eq_some.1 hk
  simp [atUnmapped, hl]

/-- Settles O9: every operation looks up its own window first. -/
theorem misroutedTermsAreRefused : Obligations.MisroutedTermsAreRefused := by
  intro i s h
  cases i with
  | unmappedRd | unmappedWr => exact atUnmapped_misrouted (of_decide_eq_false h)
  | serialRd | serialWr => exact atSerial_misrouted h
  | vecRd | vecWr | remapRd | remapWr | tickonRd | tickonWr | tickoffRd | tickoffWr | storageRd | storageWr | ramRd
  | ramWr | romRd | romWr | ramdiskRd | ramdiskWr => exact atKind_misrouted (of_decide_eq_false h)

end Sys2Proof.Machine

/-! The forms of a CPU access within one aligned word (30_encoding.md R60, R65). -/

namespace Sys2Proof.Machine

/-- The one guard of the mask and of both forms: only an access that crosses an aligned word has none. -/
theorem fitsWord_guard_eq_none_iff {a v : Word} {w : Width} :
    (if fitsWord a w then some v else none) = none ↔ 4 < a.toNat % 4 + widthBytes w := by
  rw [← Nat.not_le, ← fitsWord_iff]
  simp

theorem canonMask_eq_some_iff {o : LaneOrder} {a m : Word} {w : Width} :
    canonMask o a w = some m ↔ fitsWord a w = true ∧ m = maskOfLanes o (laneOfAddr a) (widthBytes w) := by
  simp [canonMask, @eq_comm _ m]

theorem place_eq_some_iff {o : LaneOrder} {v a d : Word} {w : Width} :
    place o v a w = some d ↔ fitsWord a w = true ∧ d = lowBits w v <<< placeShift o a w := by
  simp [place, @eq_comm _ d]

theorem extract_of_fitsWord {o : LaneOrder} {r a : Word} {w : Width} (h : fitsWord a w = true) :
    extract o r a w = some (lowBits w (r >>> placeShift o a w)) :=
  if_pos h

/-- Settles O39: the mask's lanes are those from `A mod 4` on, whose addresses are those from `A` on. -/
theorem canonicalMaskNamesTheBytesOfTheAccess : Obligations.CanonicalMaskNamesTheBytesOfTheAccess := by
  intro o a w
  refine ⟨fitsWord_guard_eq_none_iff, fun m hm k => ?_⟩
  obtain ⟨-, rfl⟩ := canonMask_eq_some_iff.1 hm
  have hlanes : (laneOfAddr a ≤ k.val ∧ k.val < laneOfAddr a + widthBytes w)
      ↔ (a.toNat ≤ laneAddr a k ∧ laneAddr a k < a.toNat + widthBytes w) := by
    rw [← wordBase_add_laneOfAddr a, laneAddr]
    omega
  rw [lane_maskOfLanes, if_congr hlanes rfl rfl]

theorem lowBits_eq_and (w : Width) (v : Word) :
    lowBits w v = v &&& BitVec.ofNat 32 (2 ^ (8 * widthBytes w) - 1) := by
  cases w with
  | w8 | w16 => rfl
  | w32 => exact BitVec.and_allOnes.symm

theorem getLsbD_lowBits (w : Width) (v : Word) {i : Nat} (hi : i < 32) :
    (lowBits w v).getLsbD i = (v.getLsbD i && decide (i < 8 * widthBytes w)) := by
  rw [lowBits_eq_and, BitVec.getLsbD_and, BitVec.getLsbD_ofNat, Nat.testBit_two_pow_sub_one, decide_eq_true hi,
    Bool.true_and]

/-- A value placed in its lanes stays within the word. -/
theorem placeShift_add_lt (o : LaneOrder) {a : Word} {w : Width} (hfits : fitsWord a w = true) {i : Nat}
    (hi : i < 8 * widthBytes w) : placeShift o a w + i < 32 := by
  have hn : laneOfAddr a + widthBytes w ≤ 4 := (fitsWord_iff a w).1 hfits
  cases o <;> (simp only [placeShift]; omega)

theorem getLsbD_lane (o : LaneOrder) (v : Word) (k : Fin 4) {j : Nat} (hj : j < 8) :
    (lane o v k).getLsbD j = v.getLsbD (laneShift o k + j) := by
  simp [lane, hj]

/-- The canonical mask covers every bit of a placed value (30_encoding.md R60, R65). -/
theorem getLsbD_maskOfLanes_placed (o : LaneOrder) {a : Word} {w : Width} (hfits : fitsWord a w = true) {i : Nat}
    (hi : i < 8 * widthBytes w) :
    (maskOfLanes o (laneOfAddr a) (widthBytes w)).getLsbD (placeShift o a w + i) = true := by
  have hn : laneOfAddr a + widthBytes w ≤ 4 := (fitsWord_iff a w).1 hfits
  obtain ⟨k, j, hj, hk⟩ := laneShift_covers o (placeShift_add_lt o hfits hi)
  have hlane : laneOfAddr a ≤ k.val ∧ k.val < laneOfAddr a + widthBytes w := by
    cases o <;> (simp only [placeShift, laneShift] at hk; omega)
  rw [hk, ← getLsbD_lane o _ k hj, lane_maskOfLanes, if_pos hlane]
  interval_cases j <;> rfl

/-- The bits of the value are merged whole, and the shift back drops what lies below them. -/
theorem lowBits_merge_placed (o : LaneOrder) (v old : Word) {a : Word} {w : Width} (hfits : fitsWord a w = true) :
    lowBits w (merge old (lowBits w v <<< placeShift o a w) (maskOfLanes o (laneOfAddr a) (widthBytes w))
      >>> placeShift o a w) = lowBits w v := by
  refine BitVec.eq_of_getLsbD_eq fun i hi32 => ?_
  rw [getLsbD_lowBits _ _ hi32]
  by_cases hi : i < 8 * widthBytes w
  · have hbit := placeShift_add_lt o hfits hi
    rw [BitVec.getLsbD_ushiftRight, getLsbD_merge _ _ _ hbit, if_pos (getLsbD_maskOfLanes_placed o hfits hi)]
    simp [hi, hbit, BitVec.getLsbD_eq_getElem hi32]
  · simp [getLsbD_lowBits w v hi32, hi]

/-- Settles O40: the forms share their guard, and the merge takes the value's bits, which the mask covers. -/
theorem extractUndoesPlace : Obligations.ExtractUndoesPlace := by
  intro o v a old w
  refine ⟨fitsWord_guard_eq_none_iff, fitsWord_guard_eq_none_iff, fun d m hd hm => ?_⟩
  obtain ⟨hfits, rfl⟩ := place_eq_some_iff.1 hd
  obtain ⟨-, rfl⟩ := canonMask_eq_some_iff.1 hm
  rw [extract_of_fitsWord hfits, lowBits_merge_placed o v old hfits]

end Sys2Proof.Machine

/-! A decoded transaction's step, and addresses in no window (40_dispatch.md R66 to R68). -/

namespace Sys2Proof.Machine

/-- Settles O7: the step is the bus step in the state without it, and that branches on what the bits decode to. -/
theorem stepRunsTheDecodedTransaction : Obligations.StepRunsTheDecodedTransaction := by
  intro s x r rest hs
  rw [step_cons hs]
  exact ⟨fun _ hi => stepBus_of_decode_ok (s := s.setStream rest) hi,
    fun _ he => stepBus_of_decode_error (s := s.setStream rest) he⟩

theorem kindAt_eq_none_of_lookup {tbl : List Window} {a : Word} (h : lookup tbl a = none) : kindAt tbl a = none :=
  Option.map_eq_none_iff.2 h

/-- Settles O10: at an address in no window the operation's own next state is the outcome. -/
theorem unmappedReadReturnsOpenBus : Obligations.UnmappedReadReturnsOpenBus :=
  fun _ _ _ _ h => atUnmapped_of_kindAt (kindAt_eq_none_of_lookup h)

/-- Settles O11: as for the read, but the next state has no result. -/
theorem unmappedWriteIsDiscarded : Obligations.UnmappedWriteIsDiscarded :=
  fun _ _ _ _ _ h => atUnmapped_of_kindAt (kindAt_eq_none_of_lookup h)

end Sys2Proof.Machine

/-! The boot overlay: the two slots of the vector window, and the remap trigger (41_boot_overlay.md R71 to R74). -/

namespace Sys2Proof.Machine

/-- The vector window starts at 0, so offsets 0 to 3, which are slot 0, are the addresses up to 3 (R71). -/
theorem vecSlot_offsetIn_eq_zero_iff {x : Window} (hx : x.start = vecBase) (a : Word) :
    vecSlot (offsetIn x a) = 0 ↔ a.toNat ≤ 3 := by
  have hbase : vecBase.toNat = 0 := rfl
  rw [vecSlot, offsetIn, hx, hbase]
  omega

theorem exec_vecRd_of_lookup {s : State} {a : Word} {x : Window} (w : Width) (m : Word)
    (hl : lookup s.cfg.windows a = some x) (hk : x.kind = .vector) :
    exec (.vecRd w a m) s
      = .next (s.setResult (some (if s.active then slotOvr s (vecSlot (offsetIn x a))
          else slotConst (vecSlot (offsetIn x a))))) :=
  atKind_of_lookup hl hk

/-- A merge into a slot merges into that slot's word, and the other word stays. -/
theorem setSlot_merge_slotOvr (s : State) (i : Nat) (d m : Word) :
    s.setSlot i (merge (slotOvr s i) d m)
      = { s with
          ovr0 := if i = 0 then merge s.ovr0 d m else s.ovr0
          ovr1 := if i = 0 then s.ovr1 else merge s.ovr1 d m } := by
  by_cases hi : i = 0 <;> simp [State.setSlot, slotOvr, hi]

/-- Settles O12: the address picks the slot, and `active` which of the slot's two words is the result. -/
theorem vectorReadReturnsConstantOrOverride : Obligations.VectorReadReturnsConstantOrOverride := by
  intro w a m s hwf ha
  rw [exec_vecRd_of_lookup w m (lookup_vector hwf ha) rfl]
  simp only [slotOvr, slotConst, vecSlot_offsetIn_eq_zero_iff]
  rfl

/-- Settles O13: the address picks the slot, and the merge is into that slot's word alone. -/
theorem vectorWriteMergesIntoTheSlot : Obligations.VectorWriteMergesIntoTheSlot := by
  intro w a d m s hwf ha
  rw [exec_vecWr_of_lookup w d m (lookup_vector hwf ha) rfl, setSlot_merge_slotOvr]
  simp only [vecSlot_offsetIn_eq_zero_iff]
  rfl

/-- Settles O14: in the trigger's window the operation's own next state is the outcome, for the read and the write. -/
theorem remapAccessActivates : Obligations.RemapAccessActivates :=
  fun _ _ _ _ _ _ hl hk => ⟨atKind_of_lookup hl hk, atKind_of_lookup hl hk⟩

end Sys2Proof.Machine


/-! The tick controller's enable and disable windows, under both policies (42_tick_controller.md R77 to R82). -/

namespace Sys2Proof.Machine

/-- Settles O17: in the enable window both operations are `TickEnable()`, which writes the flag and the schedule. -/
theorem tickEnableAccessEnables : Obligations.TickEnableAccessEnables := by
  intro w a d m s v hl hk p
  have enable : tickEnable s = { s with enabled := true, nextPulse := p } := tickEnable_eq s
  have read : exec (.tickonRd w a m) s = .next ((tickEnable s).setResult (some 0x00000000#32)) :=
    atKind_of_lookup hl hk
  have write : exec (.tickonWr w a d m) s = .next ((tickEnable s).setResult none) := atKind_of_lookup hl hk
  rw [read, write, enable]
  exact ⟨rfl, rfl⟩

/-- Settles O18: in the disable window both operations are `TickDisable()`, which leaves the lines as they are. -/
theorem tickDisableAccessDisables : Obligations.TickDisableAccessDisables := by
  intro w a d m s v hl hk p
  have disable : tickDisable s = { s with enabled := false, nextPulse := p } := tickDisable_eq s
  have read : exec (.tickoffRd w a m) s = .next ((tickDisable s).setResult (some 0x00000000#32)) :=
    atKind_of_lookup hl hk
  have write : exec (.tickoffWr w a d m) s = .next ((tickDisable s).setResult none) := atKind_of_lookup hl hk
  rw [read, write, disable]
  exact ⟨rfl, rfl⟩

end Sys2Proof.Machine

/-! The bridges' own steps: a line's level with its event, and a byte of the display (60_exceptions.md R110,
43_bridges.md R90). -/

namespace Sys2Proof.Machine

theorem lineLevel_assertLine (l j : Nat) (s : State) :
    lineLevel (assertLine l s) j = true ↔ lineLevel s j = true ∨ j = l := by
  rw [lineLevel_iff, lineLevel_iff]
  exact mem_raiseIn

theorem lineLevel_deassertLine (l j : Nat) (s : State) :
    lineLevel (deassertLine l s) j = true ↔ lineLevel s j = true ∧ j ≠ l := by
  rw [lineLevel_iff, lineLevel_iff]
  exact mem_lowerIn

/-- Settles O21: each head of the stream has its own step, and the line moves as the list of asserted lines does. -/
theorem bridgeStepsMoveTheirOwnLine : Obligations.BridgeStepsMoveTheirOwnLine := by
  intro s b v rest
  refine ⟨fun hs => ?_, fun hs => ?_, fun hs => step_cons hs⟩
  · exact ⟨assertLine (bridgeLine s.cfg b) (s.setStream rest), step_cons hs, rfl,
      fun l => lineLevel_assertLine _ l (s.setStream rest)⟩
  · exact ⟨deassertLine (bridgeLine s.cfg b) (s.setStream rest), step_cons hs, rfl,
      fun l => lineLevel_deassertLine _ l (s.setStream rest)⟩

end Sys2Proof.Machine

/-! The lanes that reach a bridge and their registers (43_bridges.md R84). -/

namespace Sys2Proof.Machine

theorem reaches_iff {o : LaneOrder} {ad : Adapter} {v : Window} {a m : Word} {k : Fin 4} :
    reaches o ad v a m k = true
      ↔ lane o m k ≠ 0x00#8 ∧ (v.start.toNat ≤ laneAddr a k ∧ laneAddr a k ≤ v.stop.toNat)
        ∧ inLaneSet ad.lanes k = true := by
  rw [reaches, Bool.and_eq_true, Bool.and_eq_true, activeLane, decide_eq_true_iff, inWindow_iff, and_assoc]

theorem inLaneSet_iff_getElem? (l : LaneSet) (k : Fin 4) :
    inLaneSet l k = true ↔ [l.lane0, l.lane1, l.lane2, l.lane3][k.val]? = some true := by
  fin_cases k <;> exact Option.some_inj.symm

theorem laneAddr_eq (a : Word) (k : Fin 4) : laneAddr a k = a.toNat - a.toNat % 4 + k.val := by
  rw [laneAddr, wordBase_eq]

theorem bridgeReg_of_stride_one {ad : Adapter} (h : ad.stride = .one) (v : Window) (a : Word) (k : Fin 4) :
    bridgeReg ad v a k = laneAddr a k - v.start.toNat := by
  rw [bridgeReg, h]
  exact Nat.div_one _

theorem bridgeReg_of_stride_four {ad : Adapter} (h : ad.stride = .four) (v : Window) (a : Word) (k : Fin 4) :
    bridgeReg ad v a k = (laneAddr a k - v.start.toNat) / 4 := by
  rw [bridgeReg, h]
  rfl

/-- Settles O55: the three conditions of `reach(k)` and the two strides of `reg(k)`, at the address of the lane. -/
theorem bridgeLanesAndRegistersFollowTheAdapter : Obligations.BridgeLanesAndRegistersFollowTheAdapter := by
  refine ⟨fun o ad v a m k => ?_, rfl, fun c => ⟨rfl, rfl, rfl, rfl, rfl⟩⟩
  rw [← inLaneSet_iff_getElem?, ← laneAddr_eq]
  exact ⟨reaches_iff, fun _ => ⟨fun h => bridgeReg_of_stride_one h v a k, fun h => bridgeReg_of_stride_four h v a k⟩⟩

end Sys2Proof.Machine

/-! A bridge transaction: the mask bytes of the lanes that reach the bridge decide between its calls and the refusal
(43_bridges.md R85 to R89). -/

namespace Sys2Proof.Machine

/-- One lane that reaches the bridge with a partial mask byte is enough (43_bridges.md R89). -/
theorem nonGranular_of_reaches {o : LaneOrder} {ad : Adapter} {v : Window} {a m : Word} {k : Fin 4}
    (hreach : reaches o ad v a m k = true) (hmask : lane o m k ≠ 0xFF#8) : nonGranular o ad v a m = true := by
  refine Bool.of_not_eq_false fun h => ?_
  exact hmask (nonGranular_false.1 h k hreach)

section

variable {s : State} {b : Bridge} {v : Window} {a m : Word}

theorem bridgeRead_of_nonGranular (h : nonGranular s.cfg.laneOrder (adapterOf s.cfg b) v a m = true) :
    bridgeRead b v a m s = .refused .nonGranularBridgeMask :=
  if_pos h

theorem bridgeWrite_of_nonGranular (d : Word)
    (h : nonGranular s.cfg.laneOrder (adapterOf s.cfg b) v a m = true) :
    bridgeWrite b v a d m s = .refused .nonGranularBridgeMask :=
  if_pos h

theorem bridgeRead_of_granular (h : nonGranular s.cfg.laneOrder (adapterOf s.cfg b) v a m = false) :
    bridgeRead b v a m s = .next { s with
      result := some (bridgeValue s.cfg (adapterOf s.cfg b) v a m s.replies)
      bridgeCalls := s.bridgeCalls ++ bridgeReadCalls s.cfg.laneOrder (adapterOf s.cfg b) b v a m s.replies } :=
  if_neg (Bool.eq_false_iff.1 h)

theorem bridgeWrite_of_granular (d : Word)
    (h : nonGranular s.cfg.laneOrder (adapterOf s.cfg b) v a m = false) :
    bridgeWrite b v a d m s = .next { s with
      result := none
      bridgeCalls := s.bridgeCalls ++ bridgeWriteCalls s.cfg.laneOrder (adapterOf s.cfg b) b v a d m } :=
  if_neg (Bool.eq_false_iff.1 h)

theorem exec_serialRd_of_lookup {i : Fin 4} (w : Width) (m : Word) (hl : lookup s.cfg.windows a = some v)
    (hk : v.kind = .serial i) : exec (.serialRd w a m) s = bridgeRead (.serial i) v a m s :=
  atSerial_of_lookup hl hk

theorem exec_serialWr_of_lookup {i : Fin 4} (w : Width) (d m : Word) (hl : lookup s.cfg.windows a = some v)
    (hk : v.kind = .serial i) : exec (.serialWr w a d m) s = bridgeWrite (.serial i) v a d m s :=
  atSerial_of_lookup hl hk

theorem exec_storageRd_of_lookup (w : Width) (m : Word) (hl : lookup s.cfg.windows a = some v)
    (hk : v.kind = .storage) : exec (.storageRd w a m) s = bridgeRead .storage v a m s :=
  atKind_of_lookup hl hk

theorem exec_storageWr_of_lookup (w : Width) (d m : Word) (hl : lookup s.cfg.windows a = some v)
    (hk : v.kind = .storage) : exec (.storageWr w a d m) s = bridgeWrite .storage v a d m s :=
  atKind_of_lookup hl hk

end

/-- Settles O27: the granular outcome of the bridge of the window, and its value lane by lane. -/
theorem serialReadCallsTheBridge : Obligations.SerialReadCallsTheBridge := by
  intro w a m s v b hl hk hmask
  rw [exec_serialRd_of_lookup w m hl hk, bridgeRead_of_granular (nonGranular_false.2 hmask)]
  exact ⟨_, rfl, lane_bridgeValue s.cfg _ v a m s.replies⟩

/-- Settles O28: as for the serial read, with the adapter of the storage bridge. -/
theorem storageReadCallsTheBridge : Obligations.StorageReadCallsTheBridge := by
  intro w a m s v hl hk hmask
  rw [exec_storageRd_of_lookup w m hl hk, bridgeRead_of_granular (nonGranular_false.2 hmask)]
  exact ⟨_, rfl, lane_bridgeValue s.cfg _ v a m s.replies⟩

/-- Settles O29: the granular outcome of the write, for either kind of window. -/
theorem bridgeWritesCallTheBridge : Obligations.BridgeWritesCallTheBridge := by
  intro w a d m s v hl
  refine ⟨fun b hk hmask => ?_, fun hk hmask => ?_⟩
  · rw [exec_serialWr_of_lookup w d m hl hk]
    exact bridgeWrite_of_granular d (nonGranular_false.2 hmask)
  · rw [exec_storageWr_of_lookup w d m hl hk]
    exact bridgeWrite_of_granular d (nonGranular_false.2 hmask)

/-- Settles O30: the lane with the partial mask byte makes the whole transaction non-granular. -/
theorem nonGranularBridgeMasksAreRefused : Obligations.NonGranularBridgeMasksAreRefused := by
  intro w a d m s v k hl hmask
  refine ⟨fun b hk hreach => ?_, fun hk hreach => ?_, settle_nonGranular s⟩
  · have h := nonGranular_of_reaches hreach hmask
    rw [exec_serialRd_of_lookup w m hl hk, exec_serialWr_of_lookup w d m hl hk]
    exact ⟨bridgeRead_of_nonGranular h, bridgeWrite_of_nonGranular d h⟩
  · have h := nonGranular_of_reaches hreach hmask
    rw [exec_storageRd_of_lookup w m hl hk, exec_storageWr_of_lookup w d m hl hk]
    exact ⟨bridgeRead_of_nonGranular h, bridgeWrite_of_nonGranular d h⟩

end Sys2Proof.Machine

/-! A byte write with the canonical mask reaches the one lane of its address (43_bridges.md R88, scenario S4). -/

namespace Sys2Proof.Machine

/-- The lane whose address is `A` itself (30_encoding.md R60). -/
def byteLane (a : Word) : Fin 4 :=
  ⟨laneOfAddr a, Nat.mod_lt _ (by decide)⟩

theorem laneAddr_byteLane (a : Word) : laneAddr a (byteLane a) = a.toNat :=
  wordBase_add_laneOfAddr a

/-- The canonical mask of a byte is 0xFF in the lane of its address and 0x00 in the others. -/
theorem lane_canonMask_byte {o : LaneOrder} {a m : Word} (h : canonMask o a .w8 = some m) (k : Fin 4) :
    lane o m k = if k = byteLane a then 0xFF#8 else 0x00#8 := by
  obtain ⟨-, rfl⟩ := canonMask_eq_some_iff.1 h
  have hlane : (laneOfAddr a ≤ k.val ∧ k.val < laneOfAddr a + 1) ↔ k = byteLane a := by
    simp only [Fin.ext_iff, byteLane]
    omega
  rw [lane_maskOfLanes, widthBytes, if_congr hlane rfl rfl]

theorem inLaneSet_all (k : Fin 4) : inLaneSet LaneSet.all k = true := by
  revert k
  decide

/-- Under the spec's own adapter that lane alone reaches the bridge. -/
theorem reaches_canonMask_byte_iff {o : LaneOrder} {v : Window} {a m : Word} (hcovers : covers v a = true)
    (h : canonMask o a .w8 = some m) (k : Fin 4) :
    reaches o Adapter.byteWide v a m k = true ↔ k = byteLane a := by
  rw [reaches_iff, lane_canonMask_byte h]
  constructor
  · rintro ⟨hactive, -⟩
    by_contra hne
    exact hactive (if_neg hne)
  · rintro rfl
    rw [if_pos rfl, laneAddr_byteLane]
    exact ⟨by decide, (covers_iff v a).1 hcovers, inLaneSet_all _⟩

theorem filter_lanes_eq_singleton {p : Fin 4 → Bool} {k : Fin 4} (h : ∀ j, p j = true ↔ j = k) :
    lanes.filter p = [k] := by
  have hp : p = fun j => decide (j = k) := funext fun j => by rw [Bool.eq_iff_iff, h, decide_eq_true_iff]
  rw [hp]
  clear h hp
  revert k
  decide

/-- Settles O31: by the write's calls, O29, one for the one lane that reaches the bridge. -/
theorem storageByteWriteReachesOneRegister : Obligations.StorageByteWriteReachesOneRegister := by
  intro a d m s v hl hk (hadapter : s.cfg.adapters.storage = Adapter.byteWide) hm
  have reached : ∀ k, reaches s.cfg.laneOrder s.cfg.adapters.storage v a m k = true ↔ k = byteLane a := by
    rw [hadapter]
    exact reaches_canonMask_byte_iff (lookup_mem hl).2 hm
  have register : bridgeReg s.cfg.adapters.storage v a (byteLane a) = a.toNat - v.start.toNat := by
    rw [hadapter, bridgeReg_of_stride_one rfl, laneAddr_byteLane]
  have granular : ∀ k, reaches s.cfg.laneOrder s.cfg.adapters.storage v a m k = true →
      lane s.cfg.laneOrder m k = 0xFF#8 := fun k hreach => by
    rw [lane_canonMask_byte hm, if_pos ((reached k).1 hreach)]
  obtain ⟨-, storageWrite⟩ := bridgeWritesCallTheBridge .w8 a d m s v hl
  refine ⟨byteLane a, rfl, ?_⟩
  rw [storageWrite hk granular, filter_lanes_eq_singleton reached, List.map_singleton, register]

end Sys2Proof.Machine

/-! The backing stores: reads return the stored bytes, writes merge into them (44_backing_store.md R92 to R99). -/

namespace Sys2Proof.Machine

/-- An offset is stored to by the active in-window lane that has it, and by no other (R93). -/
theorem storedLane_eq_some_iff {o : LaneOrder} {w : Window} {a mask : Word} {off : Nat} {k : Fin 4} :
    storedLane o w a mask off = some k
      ↔ activeLane o mask k = true ∧ inWindow w a k = true ∧ laneOffset w a k = off := by
  have lane_of_found {j : Fin 4} (h : storedLane o w a mask off = some j) :
      activeLane o mask j = true ∧ inWindow w a j = true ∧ laneOffset w a j = off := by
    simpa [and_assoc] using List.find?_some h
  refine ⟨lane_of_found, fun ⟨hactive, hin, hoff⟩ => ?_⟩
  cases hfound : storedLane o w a mask off with
  | none =>
    have hnot := List.find?_eq_none.1 hfound k (mem_lanes k)
    simp [hactive, hin, hoff] at hnot
  | some j =>
    obtain ⟨-, hin', hoff'⟩ := lane_of_found hfound
    rw [laneOffset_injective hin' hin (hoff'.trans hoff.symm)]

section
variable {o : LaneOrder} {w : Window} {m : Memory} {a mask : Word}

/-- `StoreWrite` at an in-window lane's own byte: merged if the lane is active, kept if not (R93). -/
theorem memRead_storeWrite_lane (hm : memoryWf m = true) (d : Word) {k : Fin 4} (hin : inWindow w a k = true) :
    memRead (storeWrite o w m a d mask) (laneOffset w a k)
      = if activeLane o mask k = true then
          mergeByte (memRead m (laneOffset w a k)) (lane o d k) (lane o mask k)
        else memRead m (laneOffset w a k) := by
  rw [memRead_storeWrite o w m a d mask hm]
  by_cases hactive : activeLane o mask k = true
  · rw [storedLane_eq_some_iff.2 ⟨hactive, hin, rfl⟩, if_pos hactive]
  · have hnone : storedLane o w a mask (laneOffset w a k) = none := by
      refine Option.eq_none_iff_forall_ne_some.2 fun j hj => ?_
      obtain ⟨hactive', hin', hoff⟩ := storedLane_eq_some_iff.1 hj
      exact hactive (laneOffset_injective hin' hin hoff ▸ hactive')
    rw [hnone, if_neg hactive]

/-- `StoreWrite` at a byte of no active in-window lane: kept (R93). -/
theorem memRead_storeWrite_other (hm : memoryWf m = true) (d : Word) {off : Nat}
    (hoff : ∀ k, activeLane o mask k = true → inWindow w a k = true → off ≠ laneOffset w a k) :
    memRead (storeWrite o w m a d mask) off = memRead m off := by
  have hnone : storedLane o w a mask off = none := by
    refine Option.eq_none_iff_forall_ne_some.2 fun k hk => ?_
    obtain ⟨hactive, hin, hk⟩ := storedLane_eq_some_iff.1 hk
    exact hoff k hactive hin hk.symm
  rw [memRead_storeWrite o w m a d mask hm, hnone]

/-- `StoreWrite` in full: a store in canonical form, each active in-window lane merged, every other byte kept (R93). -/
theorem storeWrite_mergesActiveLanes (hm : memoryWf m = true) (d : Word) :
    memoryWf (storeWrite o w m a d mask) = true
      ∧ (∀ k, activeLane o mask k = true → inWindow w a k = true →
          memRead (storeWrite o w m a d mask) (laneOffset w a k)
            = mergeByte (memRead m (laneOffset w a k)) (lane o d k) (lane o mask k))
      ∧ ∀ off, (∀ k, activeLane o mask k = true → inWindow w a k = true → off ≠ laneOffset w a k) →
          memRead (storeWrite o w m a d mask) off = memRead m off :=
  ⟨storeWrite_wf o w m a d mask hm,
    fun _ hactive hin => (memRead_storeWrite_lane hm d hin).trans (if_pos hactive),
    fun _ => memRead_storeWrite_other hm d⟩

end

theorem exec_ramRd_of_lookup {s : State} {a : Word} {v : Window} (w : Width) (m : Word)
    (hl : lookup s.cfg.windows a = some v) (hk : v.kind = .ram) :
    exec (.ramRd w a m) s = .next (s.setResult (some (storeRead s.cfg v s.ram a))) :=
  atKind_of_lookup hl hk

/-- Settles O32: each read's result is `StoreRead` of its own store, which `lane_storeRead` says lane by lane. -/
theorem storeReadsReturnTheStoredBytes : Obligations.StoreReadsReturnTheStoredBytes := by
  intro w a m s v hl
  refine ⟨fun hk => ?ram, fun hk => ?rom, fun hk => ?ramdisk⟩
  case ram => exact ⟨storeRead s.cfg v s.ram a, exec_ramRd_of_lookup w m hl hk, lane_storeRead s.cfg v s.ram a⟩
  case rom => exact ⟨storeRead s.cfg v s.rom a, atKind_of_lookup hl hk, lane_storeRead s.cfg v s.rom a⟩
  case ramdisk =>
    exact ⟨storeRead s.cfg v s.ramdisk a, atKind_of_lookup hl hk, lane_storeRead s.cfg v s.ramdisk a⟩

/-- Settles O33: RAM becomes `StoreWrite` of itself. -/
theorem ramWriteMergesActiveLanes : Obligations.RamWriteMergesActiveLanes :=
  fun w _ d m _ _ hl hk hm => ⟨_, exec_ramWr_of_lookup w d m hl hk, storeWrite_mergesActiveLanes hm d⟩

/-- Settles O34: the ramdisk becomes `StoreWrite` of itself; the blob is no part of that. -/
theorem ramdiskWriteMergesActiveLanes : Obligations.RamdiskWriteMergesActiveLanes :=
  fun w _ d m _ _ hl hk hm => ⟨_, exec_ramdiskWr_of_lookup w d m hl hk, storeWrite_mergesActiveLanes hm d⟩

/-- Settles O37: the read finds the write's window, and a lane it returns is the byte the write left there. -/
theorem ramReadAfterWriteReturnsTheMerge : Obligations.RamReadAfterWriteReturnsTheMerge := by
  intro w w' a d m m' s v hl hk hm
  have write := exec_ramWr_of_lookup w d m hl hk
  refine ⟨_, _, storeRead s.cfg v _ a, write, exec_ramRd_of_lookup w' m' (by exact hl) hk, rfl, rfl, fun k hin => ?_⟩
  rw [lane_storeRead, if_pos hin]
  exact memRead_storeWrite_lane hm d hin

/-- Settles O35: in the ROM window the operation's own next state is the outcome, with no result. -/
theorem romWriteIsDiscarded : Obligations.RomWriteIsDiscarded :=
  fun _ _ _ _ _ _ hl hk => atKind_of_lookup hl hk

end Sys2Proof.Machine

/-! PULSE, TIME and CLEAR: the tick controller's pulse, the clock, and the CPU clearing a line (60_exceptions.md R106,
R109, R119). -/

namespace Sys2Proof.Machine

theorem mem_ite_raiseIn (b : Bool) {xs : List Nat} {l j : Nat} :
    j ∈ (if b = true then raiseIn xs l else xs) ↔ j ∈ xs ∨ (b = true ∧ j = l) := by
  cases b with
  | false => simp
  | true => simp [mem_raiseIn]

/-- A pulse asserts the tick line while `enabled`, and moves no other line (60_exceptions.md R106). -/
theorem lineLevel_pulseEffect (p l : Nat) (s : State) :
    lineLevel (pulseEffect p s) l = true ↔ lineLevel s l = true ∨ (s.enabled = true ∧ l = s.cfg.tickLine) := by
  rw [lineLevel_iff, lineLevel_iff, pulseEffect_eq]
  exact mem_ite_raiseIn s.enabled

theorem lineLevel_clearLine (l j : Nat) (s : State) :
    lineLevel (clearLine l s) j = true ↔ lineLevel s j = true ∧ j ≠ l := by
  rw [lineLevel_iff, lineLevel_iff]
  exact mem_lowerIn

theorem step_pulse_due {s : State} {rest : List AgentStep} (hs : s.stream = .pulse :: rest)
    (hdue : s.nextPulse = some s.now) : step s = .next (pulseEffect s.now (s.setStream rest)) :=
  (step_cons hs).trans (stepPulse_due hdue)

theorem step_pulse_notDue {s : State} {rest : List AgentStep} (hs : s.stream = .pulse :: rest)
    (hdue : s.nextPulse ≠ some s.now) : step s = .refused .pulseNotDue :=
  (step_cons hs).trans (stepPulse_notDue hdue)

theorem step_time_allowed {s : State} {t : Nat} {rest : List AgentStep} (hs : s.stream = .time t :: rest)
    (hnow : s.now ≤ t) (hpulse : ∀ p, s.nextPulse = some p → t ≤ p) :
    step s = .next ((s.setStream rest).setNow t) :=
  (step_cons hs).trans (stepTime_allowed hnow hpulse)

theorem step_time_notAllowed {s : State} {t : Nat} {rest : List AgentStep} (hs : s.stream = .time t :: rest)
    (h : t < s.now ∨ ∃ p, s.nextPulse = some p ∧ p < t) : step s = .refused .timeNotAllowed := by
  refine (step_cons hs).trans (stepTime_notAllowed ?_)
  rintro ⟨hnow, hpulse⟩
  rcases h with hpast | ⟨p, hp, hpt⟩
  · exact absurd hnow (Nat.not_le.2 hpast)
  · exact absurd (hpulse p hp) (Nat.not_le.2 hpt)

/-- Settles O22: `timeAllowed` holds in the first case of TIME and fails in the second, and an undue PULSE is no
step. -/
theorem timeStopsAtThePendingPulse : Obligations.TimeStopsAtThePendingPulse :=
  fun _ _ _ => ⟨fun hs => ⟨step_time_allowed hs, step_time_notAllowed hs⟩, step_pulse_notDue⟩

/-- Settles O19: the due pulse is `pulseEffect`; a PULSE out of turn and a TIME past the next pulse are refused. -/
theorem duePulseAssertsTheTickLine : Obligations.DuePulseAssertsTheTickLine := by
  intro s rest hs
  refine ⟨fun hdue => ?due, fun hdue t ht => ?notDue, fun p n hp hpn t ht => ?timePast⟩
  case due =>
    refine ⟨pulseEffect s.now (s.setStream rest), step_pulse_due hs hdue, ?_,
      fun l => lineLevel_pulseEffect s.now l (s.setStream rest)⟩
    rw [pulseEffect_eq]
    rfl
  case notDue => cases (step_pulse_notDue hs hdue).symm.trans ht
  case timePast =>
    have hrefused : step { s with stream := .time n :: rest } = .refused .timeNotAllowed :=
      step_time_notAllowed rfl (.inr ⟨p, hp, hpn⟩)
    cases hrefused.symm.trans ht

/-- Settles O20: CLEAR is `clearLine`, and what a due pulse does after it is the pulse's own statement. -/
theorem clearLowersOneLine : Obligations.ClearLowersOneLine := by
  intro s l rest hs
  refine ⟨clearLine l (s.setStream rest), step_cons hs, rfl, fun j => lineLevel_clearLine l j (s.setStream rest),
    fun hl henabled hdue => ?_⟩
  obtain ⟨pulse_due, -⟩ :=
    duePulseAssertsTheTickLine { clearLine l (s.setStream rest) with stream := [.pulse] } [] rfl
  obtain ⟨u, hu, -, level⟩ := pulse_due hdue
  exact ⟨u, hu, (level l).2 (.inr ⟨henabled, hl⟩)⟩

end Sys2Proof.Machine

/-! ADVANCE: one round of ADVANCE, TIME and PULSE for each pulse that is due, then TIME (60_exceptions.md R107, R119,
notes/assumptions/1.md). -/

namespace Sys2Proof.Machine

theorem run_of_step {s t : State} (h : step s = .next t) (k : Nat) :
    Host.Core.run core (k + 1) s = Host.Core.run core k t := by
  have hcore : core.step s = .next t := h
  simp only [Host.Core.run, hcore]

theorem advanceSteps_of_due {t p : Nat} {s : State} (hp : s.nextPulse = some p) (hpt : p ≤ t) :
    advanceSteps t s = [.time p, .pulse, .advance t] := by
  simp [advanceSteps, hp, hpt]

theorem advanceSteps_of_notDue {t : Nat} {s : State} (h : ∀ p, s.nextPulse = some p → t < p) :
    advanceSteps t s = [.time t] := by
  cases hp : s.nextPulse with
  | none => simp [advanceSteps, hp]
  | some p => simp [advanceSteps, hp, h p hp]

/-- ADVANCE puts its first steps before the ones still to come. -/
theorem step_advance {s : State} {t : Nat} {rest : List AgentStep} (hs : s.stream = .advance t :: rest) :
    step s = .next (s.setStream (advanceSteps t s ++ rest)) :=
  step_cons hs

/-- Settles O24: ADVANCE becomes TIME(t), which no pending pulse holds back. -/
theorem advanceWithNoPulseDueIsTime : Obligations.AdvanceWithNoPulseDueIsTime := by
  intro s t rest hs hnow hpulse
  have expand := step_advance hs
  rw [advanceSteps_of_notDue hpulse] at expand
  have time : step (s.setStream (.time t :: rest)) = .next { s with stream := rest, now := t } :=
    step_time_allowed (s := s.setStream (.time t :: rest)) rfl hnow fun p hp => (hpulse p hp).le
  exact (run_of_step expand 1).trans (run_of_step time 0)

/-- The state when the pulses at `p`, a period later, and so on to the one after `n` periods have been taken. -/
def State.pulsed (n p : Nat) (s : State) : State :=
  { s with
    now := p + n * s.cfg.tickPeriod
    nextPulse := some (p + (n + 1) * s.cfg.tickPeriod)
    irq := if s.enabled = true then raiseIn s.irq s.cfg.tickLine else s.irq
    events := if s.enabled = true then s.events ++ List.replicate (n + 1) (.assertLine s.cfg.tickLine)
      else s.events }

/-- `pulsed` begins as the model's own pulse, at the time it is due. -/
theorem pulsed_zero (p : Nat) (s : State) : s.pulsed 0 p = pulseEffect p (s.setNow p) := by
  rw [State.pulsed, pulseEffect_eq, Nat.zero_mul, Nat.add_zero, Nat.one_mul]
  rfl

/-- Asserting a line that is asserted changes nothing. -/
theorem raiseIn_raiseIn (xs : List Nat) (l : Nat) : raiseIn (raiseIn xs l) l = raiseIn xs l := by
  induction xs with
  | nil => simp [raiseIn]
  | cons x xs ih =>
    by_cases hlt : l < x
    · simp [raiseIn, hlt]
    · by_cases heq : x = l
      · simp [raiseIn, heq]
      · simp [raiseIn, hlt, heq, ih]

/-- One pulse, then the pulses from the next scheduled one on. -/
theorem pulsed_pulsed_zero (n p : Nat) (s : State) :
    (s.pulsed 0 p).pulsed n (p + s.cfg.tickPeriod) = s.pulsed (n + 1) p := by
  have period : ∀ m, p + s.cfg.tickPeriod + m * s.cfg.tickPeriod = p + (m + 1) * s.cfg.tickPeriod := fun m => by
    rw [Nat.succ_mul, Nat.add_assoc, Nat.add_comm s.cfg.tickPeriod]
  by_cases he : s.enabled = true
  · simp [State.pulsed, period, he, raiseIn_raiseIn, List.replicate_succ]
  · simp [State.pulsed, period, he]

theorem lineLevel_pulsed (n p l : Nat) (s : State) :
    lineLevel (s.pulsed n p) l = true ↔ lineLevel s l = true ∨ (s.enabled = true ∧ l = s.cfg.tickLine) := by
  rw [lineLevel_iff, lineLevel_iff]
  exact mem_ite_raiseIn s.enabled

section

variable {s : State} {t p : Nat} {rest : List AgentStep}

/-- One round: ADVANCE with a pulse due, TIME to that pulse, the PULSE; ADVANCE is then the next step again. -/
theorem run_advance_round (hs : s.stream = .advance t :: rest) (hp : s.nextPulse = some p) (hnow : s.now ≤ p)
    (hpt : p ≤ t) (k : Nat) : Host.Core.run core (k + 3) s = Host.Core.run core k (s.pulsed 0 p) := by
  have expand := step_advance hs
  rw [advanceSteps_of_due hp hpt] at expand
  have time : step (s.setStream (.time p :: .pulse :: .advance t :: rest))
      = .next ((s.setStream (.pulse :: .advance t :: rest)).setNow p) :=
    step_time_allowed rfl hnow fun q hq => (Option.some.inj (hp.symm.trans hq)).le
  have pulse : step ((s.setStream (.pulse :: .advance t :: rest)).setNow p) = .next (s.pulsed 0 p) := by
    rw [pulsed_zero, step_pulse_due rfl hp, ← hs]
    rfl
  calc Host.Core.run core (k + 3) s
      = Host.Core.run core (k + 2) (s.setStream (.time p :: .pulse :: .advance t :: rest)) := run_of_step expand _
    _ = Host.Core.run core (k + 1) ((s.setStream (.pulse :: .advance t :: rest)).setNow p) := run_of_step time _
    _ = Host.Core.run core k (s.pulsed 0 p) := run_of_step pulse _

/-- As many rounds as pulses are due by `t`: each leaves the schedule a period on and ADVANCE at the head. -/
theorem run_advance_rounds (n : Nat) (hs : s.stream = .advance t :: rest) (hp : s.nextPulse = some p)
    (hnow : s.now ≤ p) (hpt : p + n * s.cfg.tickPeriod ≤ t) (k : Nat) :
    Host.Core.run core (3 * (n + 1) + k) s = Host.Core.run core k (s.pulsed n p) := by
  induction n generalizing s p with
  | zero =>
    rw [Nat.add_comm]
    exact run_advance_round hs hp hnow (Nat.le_of_add_right_le hpt) k
  | succ n ih =>
    have split_period : (n + 1) * s.cfg.tickPeriod = n * s.cfg.tickPeriod + s.cfg.tickPeriod := Nat.succ_mul ..
    have next : (s.pulsed 0 p).nextPulse = some (p + s.cfg.tickPeriod) := by simp [State.pulsed]
    have now : (s.pulsed 0 p).now ≤ p + s.cfg.tickPeriod := by simp [State.pulsed]
    have due : p + s.cfg.tickPeriod + n * s.cfg.tickPeriod ≤ t := by omega
    calc Host.Core.run core (3 * (n + 1 + 1) + k) s
        = Host.Core.run core (3 * (n + 1) + k + 3) s := by congr 1; omega
      _ = Host.Core.run core (3 * (n + 1) + k) (s.pulsed 0 p) := run_advance_round hs hp hnow (by omega) _
      _ = Host.Core.run core k ((s.pulsed 0 p).pulsed n (p + s.cfg.tickPeriod)) := ih hs next now due
      _ = Host.Core.run core k (s.pulsed (n + 1) p) := by rw [pulsed_pulsed_zero]

end

/-- Settles O23: a round for each pulse due, then TIME, with the next pulse less than a period after the last. -/
theorem advanceAssertsOncePerPeriod : Obligations.AdvanceAssertsOncePerPeriod := by
  intro s rest p n r hs hp hnow hr
  have rounds := run_advance_rounds n hs hp hnow (Nat.le_add_right _ r) 2
  have time := advanceWithNoPulseDueIsTime (s.pulsed n p) _ rest hs (Nat.le_add_right _ r) fun q hq => by
    cases hq
    rw [Nat.succ_mul]
    omega
  exact ⟨_, rounds.trans time, rfl, fun l => lineLevel_pulsed n p l s⟩

end Sys2Proof.Machine

/-! The ramdisk's blob: saved, loaded at RESET, or left by a save that fails; and tear down (60_exceptions.md R118,
R120, R121). -/

namespace Sys2Proof.Machine

theorem blobLoads_some_iff {c : Config} {b : Blob} {reads : Bool} :
    blobLoads c (some b) reads = true ↔ b.length = c.ramdiskSize ∧ reads = true := by
  simp [blobLoads]

theorem loadedRamdisk_of_blobLoads {c : Config} {b : Blob} {reads : Bool} (h : blobLoads c (some b) reads = true) :
    loadedRamdisk c (some b) reads = memOfCells c.ramdiskSize b.bytes :=
  if_pos h

theorem loadReports_of_blobLoads {c : Config} {b : Option Blob} {reads : Bool} (h : blobLoads c b reads = true) :
    loadReports c b reads = [] :=
  if_pos h

theorem step_saveRamdisk {s : State} {rest : List AgentStep} (hs : s.stream = .saveRamdisk :: rest) :
    step s = .next ((s.setStream rest).setBlob (some ⟨s.cfg.ramdiskSize, s.ramdisk⟩)) :=
  step_cons hs

theorem step_reset {s : State} {d : PowerOn} {rest : List AgentStep} (hs : s.stream = .reset d :: rest) :
    step s = .next (resetState d (s.setStream rest)) :=
  step_cons hs

/-- Settles O45: the saved blob has the ramdisk's length, so it loads, and a store in canonical form loads as
itself. -/
theorem savedRamdiskSurvivesAPowerCycle : Obligations.SavedRamdiskSurvivesAPowerCycle := by
  intro s d rest hs hwf hwithin hreads
  have loads : blobLoads s.cfg (some ⟨s.cfg.ramdiskSize, s.ramdisk⟩) d.blobReads = true :=
    blobLoads_some_iff.2 ⟨rfl, hreads⟩
  refine ⟨_, _, step_saveRamdisk hs, rfl, step_reset rfl, ?ramdisk, ?reports⟩
  case ramdisk => exact (loadedRamdisk_of_blobLoads loads).trans (memOfCells_self _ _ hwf hwithin)
  case reports =>
    calc s.reports ++ loadReports s.cfg (some ⟨s.cfg.ramdiskSize, s.ramdisk⟩) d.blobReads
        = s.reports ++ [] := by rw [loadReports_of_blobLoads loads]
      _ = s.reports := List.append_nil _

/-- Settles O46: each is the host's own step, and with no step left the state stays. -/
theorem failedSaveAndTearDownTouchNoBlockState : Obligations.FailedSaveAndTearDownTouchNoBlockState :=
  fun _ _ _ => ⟨step_cons, step_cons, step_nil⟩

end Sys2Proof.Machine

/-! RESET: the reset values, the ramdisk from the blob or zeros, and the vector window at its constants
(70_reset_and_hazards.md R124, R125, 60_exceptions.md R120). -/

namespace Sys2Proof.Machine

theorem firstPulse_eq (c : Config) :
    firstPulse c = if c.tickPolicy = .freeRunning then some (c.tickPhase + c.tickPeriod) else none := by
  cases hpol : c.tickPolicy <;> simp [firstPulse, hpol]

/-- The blob does not load exactly when there is none, its length is another, or reading it goes wrong. -/
theorem blobLoads_eq_false_iff {c : Config} {blob : Option Blob} {reads : Bool} :
    blobLoads c blob reads = false ↔ ∀ b, blob = some b → b.length ≠ c.ramdiskSize ∨ reads = false := by
  cases blob with
  | none => simp [blobLoads]
  | some b =>
    rw [← Bool.not_eq_true, blobLoads_some_iff, not_and_or, Bool.not_eq_true]
    simp

theorem loadedRamdisk_of_blobLoads_eq_false {c : Config} {blob : Option Blob} {reads : Bool}
    (h : blobLoads c blob reads = false) : loadedRamdisk c blob reads = [] := by
  cases blob with
  | none => rfl
  | some b => exact if_neg (by simp [h])

theorem loadReports_of_blobLoads_eq_false {c : Config} {blob : Option Blob} {reads : Bool}
    (h : blobLoads c blob reads = false) : loadReports c blob reads = [.loadFailed] :=
  if_neg (by simp [h])

/-- A blob that loads becomes the ramdisk as it is, and nothing is reported. -/
theorem resetState_of_blobLoads {d : PowerOn} {s : State} {b : Blob} (hb : s.blob = some b)
    (hwf : memoryWf b.bytes = true) (hwithin : memoryWithin b.length b.bytes = true)
    (loads : blobLoads s.cfg (some b) d.blobReads = true) :
    (resetState d s).ramdisk = b.bytes ∧ (resetState d s).reports = s.reports := by
  obtain ⟨hlength, -⟩ := blobLoads_some_iff.1 loads
  constructor
  · calc loadedRamdisk s.cfg s.blob d.blobReads
        = memOfCells s.cfg.ramdiskSize b.bytes := by rw [hb, loadedRamdisk_of_blobLoads loads]
      _ = b.bytes := memOfCells_self _ _ hwf (hlength ▸ hwithin)
  · calc s.reports ++ loadReports s.cfg s.blob d.blobReads
        = s.reports ++ [] := by rw [hb, loadReports_of_blobLoads loads]
      _ = s.reports := List.append_nil _

/-- Without a blob that loads, no byte of the ramdisk is listed and the failure is reported. -/
theorem resetState_of_blobLoads_eq_false {d : PowerOn} {s : State}
    (fails : blobLoads s.cfg s.blob d.blobReads = false) :
    (resetState d s).ramdisk = [] ∧ (resetState d s).reports = s.reports ++ [.loadFailed] :=
  ⟨loadedRamdisk_of_blobLoads_eq_false fails, congrArg (s.reports ++ ·) (loadReports_of_blobLoads_eq_false fails)⟩

/-- Settles O42: RESET writes the values itself, but for RAM, whose draw is a store in canonical form already, and for
the ramdisk and the report, which hang on whether the blob loads. -/
theorem resetGivesTheResetValues : Obligations.ResetGivesTheResetValues := by
  intro s d rest hs hram hramIn hblob
  refine ⟨_, step_reset hs, rfl, rfl, rfl, rfl, rfl, firstPulse_eq s.cfg, memOfCells_self _ _ hram hramIn, rfl, rfl,
    rfl, rfl, rfl, rfl, rfl, rfl, rfl, rfl, fun b hb hlength hreads => ?loads, fun hfails => ?fails⟩
  case loads =>
    obtain ⟨hwf, hwithin⟩ := hblob b hb
    exact resetState_of_blobLoads (s := s.setStream rest) hb hwf hwithin (blobLoads_some_iff.2 ⟨hlength, hreads⟩)
  case fails =>
    obtain ⟨hzeros, hreport⟩ :=
      resetState_of_blobLoads_eq_false (s := s.setStream rest) (blobLoads_eq_false_iff.2 hfails)
    exact ⟨fun o => by rw [hzeros, memRead], hreport⟩

/-- Settles O44: RESET keeps the parameters and lowers `active`, so by O12 a vector read returns the constants. -/
theorem vectorWindowReadsConstantsAfterReset : Obligations.VectorWindowReadsConstantsAfterReset := by
  intro s d rest hwf hs
  refine ⟨_, step_reset hs, rfl, fun l => lineLevel_eq_false_iff.2 List.not_mem_nil, fun w a m ha => ?_⟩
  exact vectorReadReturnsConstantOrOverride w a m (resetState d (s.setStream rest)) hwf ha

end Sys2Proof.Machine
